-- ==== Sys2Proof/Word.lean ====
section
/-! DEFINITION. The byte and the readings of its value (spec 00_scope.md R3, R5, R7). -/

namespace Sys2Proof

/-- A byte: 8 bits, b7 the most significant (R3, R5). Addresses are bytes too (R3). -/
abbrev Byte := BitVec 8

/-- R7: the positive integer 0 to 255 a byte holds, written `u(v)` in the spec. -/
abbrev Byte.unsigned (v : Byte) : Nat := BitVec.toNat v

/-- R7: the signed two's complement integer -128 to 127 a byte holds, written `s(v)` in the spec. -/
abbrev Byte.signed (v : Byte) : Int := BitVec.toInt v

/-- R7: the signed fraction a byte holds, its signed integer divided by 128. -/
def Byte.fraction (v : Byte) : Rat := (Byte.signed v : Rat) / 128

end Sys2Proof
end

