-- ==== Sys2Proof/Config.lean ====
section
/-! DEFINITION. The named parameters of spec 00_scope.md R4, the small closed sets of the console state, and
the free values: opaque constants with no body, each applied to the number of the draw (log 7). -/

namespace Sys2Proof

/-- R30: the run state. -/
inductive RunState where
  | run
  | halt
  deriving DecidableEq, Repr, Inhabited

/-- R33: which Console Control Lamp is lit; at most one is. -/
inductive Sel where
  | input
  | address
  | memory
  | run
  | none
  deriving DecidableEq, Repr, Inhabited

/-- R4, R173: `P_NOOP31_LEN`, the length of the codes 0o313 to 0o317, 1 or 2 bytes. -/
inductive Noop31Length where
  | one
  | two
  deriving DecidableEq, Repr

/-- The length as a number of bytes. -/
def Noop31Length.toNat : Noop31Length → Nat
  | .one => 1
  | .two => 2

/-- R4, R122: `P_SUB_CA`, the polarity of the Carry bit after SUB. -/
inductive SubCarry where
  | borrow
  | notBorrow
  deriving DecidableEq, Repr

/-- R4: the parameters a model takes as arguments. State carries them, no step changes them, and no statement
rests on the values State.reset has for them (DESIGN CHOICE, log 6). -/
structure Params where
  noop31Length : Noop31Length
  subCarry : SubCarry
  deriving DecidableEq, Repr

/-- R4: the defaults the spec names for the parameters. -/
def Params.default : Params := { noop31Length := .two, subCarry := .borrow }

/-- R4, R222: `AR_after_start`, the Address Register after an entry to the Run state; free at every draw. -/
opaque Config.arAfterStart : Nat → Byte

/-- R211: the Control Lamp after Address Set and after Memory Store; free at every draw. -/
opaque Config.selAfterPress : Nat → Sel

/-- R4, R240: `M_power_on`, the byte each address holds after power is applied; free at every draw. -/
opaque Config.memPowerOn : Nat → Byte → Byte

/-- R4, R240: `run_power_on`; free at every draw. -/
opaque Config.runPowerOn : Nat → RunState

/-- R4, R240: `AR_power_on`; free at every draw. -/
opaque Config.arPowerOn : Nat → Byte

/-- R4, R240: the lit Control Lamp of `lamps_power_on`; free at every draw. -/
opaque Config.selPowerOn : Nat → Sel

/-- R4, R240: the shown memory byte of `lamps_power_on`; free at every draw. -/
opaque Config.shownPowerOn : Nat → Byte

end Sys2Proof
end

