-- ==== Sys2Proof/Syntax.lean ====
section
/-! DEFINITION. The instructions (spec 30_encoding.md): one constructor per mnemonic of opcode_table.json, the
fields of its rows as operands (log 22). `b2` is the second byte. -/

namespace Sys2Proof

/-- R83: the designated register of format RM. -/
inductive Reg where
  | a
  | b
  | x
  deriving DecidableEq, Repr

/-- R87: the register a shift or rotate works on; X cannot be shifted. -/
inductive ShiftReg where
  | a
  | b
  deriving DecidableEq, Repr

/-- R112: the five operand addressing modes, third digit 3 to 7. -/
inductive Mode where
  | constant
  | memory
  | indirect
  | indexed
  | indirectIndexed
  deriving DecidableEq, Repr

/-- R141: the jump conditions, third digit 3 to 7. -/
inductive Cond where
  | nonZero
  | zero
  | negative
  | positive
  | positiveNonZero
  deriving DecidableEq, Repr

/-- R85: what a jump tests. -/
inductive JumpTest where
  | reg (r : Reg)
  | unconditional
  deriving DecidableEq, Repr

/-- R160: the place count of a shift or rotate; no other count can be encoded. -/
inductive Places where
  | one
  | two
  | three
  | four
  deriving DecidableEq, Repr

/-- The instructions of R90. The don't-care bits b6 to b3 of HALT and NOOP (R88) and the ignored condition of an
unconditional jump (R85) are kept, so that an instruction determines its encoding. -/
inductive Instr where
  /-- R121 -/
  | add (r : Reg) (m : Mode) (b2 : Byte)
  /-- R122 -/
  | sub (r : Reg) (m : Mode) (b2 : Byte)
  /-- R123 -/
  | load (r : Reg) (m : Mode) (b2 : Byte)
  /-- R124 -/
  | store (r : Reg) (m : Mode) (b2 : Byte)
  /-- R131 -/
  | and (m : Mode) (b2 : Byte)
  /-- R132 -/
  | or (m : Mode) (b2 : Byte)
  /-- R133 -/
  | lneg (m : Mode) (b2 : Byte)
  /-- R173: the codes 0o313 to 0o317; `second` is the second byte where `P_NOOP31_LEN` gives them one -/
  | noop31 (m : Mode) (second : Option Byte)
  /-- R142 -/
  | jpd (t : JumpTest) (c : Cond) (b2 : Byte)
  /-- R143 -/
  | jpi (t : JumpTest) (c : Cond) (b2 : Byte)
  /-- R144 -/
  | jmd (t : JumpTest) (c : Cond) (b2 : Byte)
  /-- R145 -/
  | jmi (t : JumpTest) (c : Cond) (b2 : Byte)
  /-- R151 -/
  | skp0 (k : Fin 8) (b2 : Byte)
  /-- R152 -/
  | skp1 (k : Fin 8) (b2 : Byte)
  /-- R153 -/
  | set0 (k : Fin 8) (b2 : Byte)
  /-- R154 -/
  | set1 (k : Fin 8) (b2 : Byte)
  /-- R161 -/
  | sftl (g : ShiftReg) (n : Places)
  /-- R162 -/
  | sftr (g : ShiftReg) (n : Places)
  /-- R163 -/
  | rotl (g : ShiftReg) (n : Places)
  /-- R164 -/
  | rotr (g : ShiftReg) (n : Places)
  /-- R171 -/
  | noop (dontCare : BitVec 4)
  /-- R172 -/
  | halt (dontCare : BitVec 4)
  deriving DecidableEq, Repr

end Sys2Proof
end

