-- ==== Sys2Proof/WellFormed.lean ====
section
/-! DEFINITION. Which terms of Instr are instructions. The types of the operands leave one check: R173's codes have a
second byte exactly when `P_NOOP31_LEN` is 2. -/

namespace Sys2Proof

/-- R82, R173: the second byte of the codes 0o313 to 0o317 is there exactly when their length is 2. -/
def noop31WellFormed : Noop31Length → Option Byte → Bool
  | .one, second => second.isNone
  | .two, second => second.isSome

/-- A term is an instruction of the machine whose `P_NOOP31_LEN` is `len`. -/
def Instr.wellFormed (len : Noop31Length) : Instr → Bool
  | .noop31 _ second => noop31WellFormed len second
  | .add _ _ _ | .sub _ _ _ | .load _ _ _ | .store _ _ _ => true
  | .and _ _ | .or _ _ | .lneg _ _ => true
  | .jpd _ _ _ | .jpi _ _ _ | .jmd _ _ _ | .jmi _ _ _ => true
  | .skp0 _ _ | .skp1 _ _ | .set0 _ _ | .set1 _ _ => true
  | .sftl _ _ | .sftr _ _ | .rotl _ _ | .rotr _ _ => true
  | .noop _ | .halt _ => true

end Sys2Proof
end

