-- ==== Sys2Proof/Decode.lean ====
section
/-! DEFINITION. Decoding and encoding (spec 30_encoding.md R80 to R91). The first byte is read as three octal digits
D1, D2, D3; D3 selects the class. -/

namespace Sys2Proof

/-- R6, R81: a first byte from its three octal digits. -/
def octalByte (d1 : BitVec 2) (d2 d3 : BitVec 3) : Byte := d1 ++ d2 ++ d3

/-- R81: `D1 = b1[7:6]`. -/
def digit1 (b1 : Byte) : BitVec 2 := b1.extractLsb' 6 2

/-- R81: `D2 = b1[5:3]`. -/
def digit2 (b1 : Byte) : BitVec 3 := b1.extractLsb' 3 3

/-- R81: `D3 = b1[2:0]`. -/
def digit3 (b1 : Byte) : BitVec 3 := b1.extractLsb' 0 3

/-- R82: the length of an instruction in bytes, from its first byte; the codes 0o313 to 0o317 have the length
`P_NOOP31_LEN`. -/
def instrLength (len : Noop31Length) (b1 : Byte) : Nat :=
  match (digit3 b1).toNat with
  | 0 => 1
  | 1 => 1
  | 2 => 2
  | _ => if digit1 b1 = 3 ∧ digit2 b1 = 1 then len.toNat else 2

/-- R83: D1 as the designated register; 3 names none. -/
def Reg.ofDigit (d1 : BitVec 2) : Option Reg :=
  match d1.toNat with
  | 0 => some .a
  | 1 => some .b
  | 2 => some .x
  | _ => none

/-- R85: D1 as what a jump tests. -/
def JumpTest.ofDigit (d1 : BitVec 2) : JumpTest :=
  match Reg.ofDigit d1 with
  | some r => .reg r
  | none => .unconditional

/-- R83: D3, one of 3 to 7, as the addressing mode. -/
def Mode.ofDigit (d3 : BitVec 3) : Mode :=
  match d3.toNat with
  | 3 => .constant
  | 4 => .memory
  | 5 => .indirect
  | 6 => .indexed
  | _ => .indirectIndexed

/-- R85: D3, one of 3 to 7, as the jump condition. -/
def Cond.ofDigit (d3 : BitVec 3) : Cond :=
  match d3.toNat with
  | 3 => .nonZero
  | 4 => .zero
  | 5 => .negative
  | 6 => .positive
  | _ => .positiveNonZero

/-- R87: b5 as the register shifted. -/
def ShiftReg.ofBit (b5 : Bool) : ShiftReg :=
  match b5 with
  | false => .a
  | true => .b

/-- R87: b4 b3 as the place count; 00 is four places. -/
def Places.ofCode (n : BitVec 2) : Places :=
  match n.toNat with
  | 0 => .four
  | 1 => .one
  | 2 => .two
  | _ => .three

/-- R88: format MISC. -/
def decodeMisc (b1 : Byte) : Instr :=
  if b1.getLsbD 7 then .noop (b1.extractLsb' 3 4) else .halt (b1.extractLsb' 3 4)

/-- R87: format SH. -/
def decodeShift (b1 : Byte) : Instr :=
  let g := ShiftReg.ofBit (b1.getLsbD 5)
  let n := Places.ofCode (b1.extractLsb' 3 2)
  match (digit1 b1).toNat with
  | 0 => .sftr g n
  | 1 => .rotr g n
  | 2 => .sftl g n
  | _ => .rotl g n

/-- R86: format BIT. -/
def decodeBit (b1 b2 : Byte) : Instr :=
  let k : Fin 8 := (digit2 b1).toFin
  match (digit1 b1).toNat with
  | 0 => .set0 k b2
  | 1 => .set1 k b2
  | 2 => .skp0 k b2
  | _ => .skp1 k b2

/-- R82, R173: the second byte of a code 0o313 to 0o317, where it has one. -/
def noop31Second (len : Noop31Length) (b2 : Byte) : Option Byte :=
  match len with
  | .one => none
  | .two => some b2

/-- R83, R84, R90: formats RM and AM, D2 in 0 to 3. -/
def decodeOperand (len : Noop31Length) (b1 b2 : Byte) : Instr :=
  let m := Mode.ofDigit (digit3 b1)
  match (digit2 b1).toNat, Reg.ofDigit (digit1 b1) with
  | 0, some r => .add r m b2
  | 1, some r => .sub r m b2
  | 2, some r => .load r m b2
  | _, some r => .store r m b2
  | 0, none => .or m b2
  | 1, none => .noop31 m (noop31Second len b2)
  | 2, none => .and m b2
  | _, none => .lneg m b2

/-- R85: format J, D2 in 4 to 7. -/
def decodeJump (b1 b2 : Byte) : Instr :=
  let t := JumpTest.ofDigit (digit1 b1)
  let c := Cond.ofDigit (digit3 b1)
  match (digit2 b1).toNat with
  | 4 => .jpd t c b2
  | 5 => .jpi t c b2
  | 6 => .jmd t c b2
  | _ => .jmi t c b2

/-- R90: the instruction a first byte selects, with the byte after it. Every first byte selects one, so this is total
(R91); a one byte instruction does not depend on `b2`. -/
def decodePair (len : Noop31Length) (b1 b2 : Byte) : Instr :=
  match (digit3 b1).toNat with
  | 0 => decodeMisc b1
  | 1 => decodeShift b1
  | 2 => decodeBit b1 b2
  | _ => if b1.getLsbD 5 then decodeJump b1 b2 else decodeOperand len b1 b2

/-- Why a list of bytes holds no whole instruction. -/
inductive DecodeError where
  /-- there is no byte at all -/
  | noFirstByte
  /-- the first byte is that of a two byte instruction and no byte follows it -/
  | noSecondByte
  deriving DecidableEq, Repr

/-- R80, R82: the instruction at the head of a list of bytes, with the bytes after it. Total; it rejects by name a list
too short to hold the instruction, and nothing else (R91). -/
def decode (len : Noop31Length) : List Byte → Except DecodeError (Instr × List Byte)
  | [] => .error .noFirstByte
  | b1 :: rest =>
    if instrLength len b1 = 1 then .ok (decodePair len b1 0, rest)
    else
      match rest with
      | [] => .error .noSecondByte
      | b2 :: rest' => .ok (decodePair len b1 b2, rest')

/-- R83: the digit of a designated register. -/
def Reg.digit : Reg → BitVec 2
  | .a => 0
  | .b => 1
  | .x => 2

/-- R85: the digit of what a jump tests. -/
def JumpTest.digit : JumpTest → BitVec 2
  | .reg r => r.digit
  | .unconditional => 3

/-- R83: the digit of an addressing mode. -/
def Mode.digit : Mode → BitVec 3
  | .constant => 3
  | .memory => 4
  | .indirect => 5
  | .indexed => 6
  | .indirectIndexed => 7

/-- R85: the digit of a jump condition. -/
def Cond.digit : Cond → BitVec 3
  | .nonZero => 3
  | .zero => 4
  | .negative => 5
  | .positive => 6
  | .positiveNonZero => 7

/-- R87: the register bit b5 of a shift or rotate. -/
def ShiftReg.bit : ShiftReg → BitVec 1
  | .a => 0
  | .b => 1

/-- R87: the place count code b4 b3. -/
def Places.code : Places → BitVec 2
  | .one => 1
  | .two => 2
  | .three => 3
  | .four => 0

/-- R87: the first digit selects the shift or rotate, the second is register bit and place count. -/
def encodeShift (d1 : BitVec 2) (g : ShiftReg) (n : Places) : List Byte := [octalByte d1 (g.bit ++ n.code) 1]

/-- R86: the second digit is the bit position. -/
def encodeBit (d1 : BitVec 2) (k : Fin 8) (b2 : Byte) : List Byte := [octalByte d1 (BitVec.ofFin k) 2, b2]

/-- R88: b7, then the four don't-care bits, then 000. -/
def encodeMisc (b7 : BitVec 1) (dontCare : BitVec 4) : List Byte := [b7 ++ dontCare ++ (0 : BitVec 3)]

/-- R83 to R88: the bytes of an instruction, the first at the lower address (R53). -/
def encode : Instr → List Byte
  | .add r m b2 => [octalByte r.digit 0 m.digit, b2]
  | .sub r m b2 => [octalByte r.digit 1 m.digit, b2]
  | .load r m b2 => [octalByte r.digit 2 m.digit, b2]
  | .store r m b2 => [octalByte r.digit 3 m.digit, b2]
  | .or m b2 => [octalByte 3 0 m.digit, b2]
  | .noop31 m second => octalByte 3 1 m.digit :: second.toList
  | .and m b2 => [octalByte 3 2 m.digit, b2]
  | .lneg m b2 => [octalByte 3 3 m.digit, b2]
  | .jpd t c b2 => [octalByte t.digit 4 c.digit, b2]
  | .jpi t c b2 => [octalByte t.digit 5 c.digit, b2]
  | .jmd t c b2 => [octalByte t.digit 6 c.digit, b2]
  | .jmi t c b2 => [octalByte t.digit 7 c.digit, b2]
  | .set0 k b2 => encodeBit 0 k b2
  | .set1 k b2 => encodeBit 1 k b2
  | .skp0 k b2 => encodeBit 2 k b2
  | .skp1 k b2 => encodeBit 3 k b2
  | .sftr g n => encodeShift 0 g n
  | .rotr g n => encodeShift 1 g n
  | .sftl g n => encodeShift 2 g n
  | .rotl g n => encodeShift 3 g n
  | .halt x => encodeMisc 0 x
  | .noop x => encodeMisc 1 x

/-- The two bytes of an opcode-table word: the first is its low byte, the second the byte above it, every bit above
`nbits` zero. -/
def tableBytes (nbits w : Nat) : Byte × Byte :=
  let v := w % 2 ^ nbits
  (BitVec.ofNat 8 v, BitVec.ofNat 8 (v / 256))

/-- The instruction the decoder reads from a word of spec/opcode_table.json, with the spec's default parameters. -/
def decodeTableWord (nbits w : Nat) : Option Instr :=
  match decode Params.default.noop31Length [(tableBytes nbits w).1, (tableBytes nbits w).2] with
  | .ok (i, _) => some i
  | .error _ => none

end Sys2Proof
end

