-- ==== Sys2Proof/Machine/Memory.lean ====
section
/-! DEFINITION. The memory of 256 bytes (spec 10_state.md R20, 20_memory.md R50) as a list of cells in one canonical
form: addresses strictly rising and below 256, no cell equal to what an unlisted address reads as. -/

namespace Sys2Proof.Machine

/-- Memory as data: the bytes that differ from `unlisted`, by rising address. -/
abbrev Memory := List Host.Cell

/-- What an address not in the list reads as. The spec gives memory no power-on contents ("random data", R240):
DESIGN CHOICE, unsafe (log 1). -/
def Memory.unlisted : Byte := 0

/-- The byte at an address given as a number. -/
def Memory.lookup (a : Nat) : Memory → Byte
  | [] => Memory.unlisted
  | (b, v) :: rest => if b = a then v else Memory.lookup a rest

/-- Puts a cell in at its place, over one that is there. -/
def Memory.insert (a : Nat) (v : Byte) : Memory → Memory
  | [] => [(a, v)]
  | (b, w) :: rest =>
    if a < b then (a, v) :: (b, w) :: rest
    else if a = b then (a, v) :: rest
    else (b, w) :: Memory.insert a v rest

/-- Takes every cell of an address out. -/
def Memory.erase (a : Nat) : Memory → Memory
  | [] => []
  | (b, w) :: rest => if b = a then Memory.erase a rest else (b, w) :: Memory.erase a rest

/-- R52, R57: a one byte read; it changes nothing. -/
def Memory.read (mem : Memory) (a : Byte) : Byte := mem.lookup a.toNat

/-- R52: a one byte write, keeping the canonical form. -/
def Memory.write (mem : Memory) (a v : Byte) : Memory :=
  if v = Memory.unlisted then mem.erase a.toNat else mem.insert a.toNat v

/-- The cells stand above `low`, strictly rising, below 256, and hold no unlisted value. -/
def Memory.wfFrom (low : Nat) : Memory → Bool
  | [] => true
  | (a, v) :: rest => decide (low ≤ a) && decide (a < 256) && decide (v ≠ Memory.unlisted) && Memory.wfFrom (a + 1) rest

/-- The canonical form: equal memories are equal data. -/
def Memory.wf (mem : Memory) : Bool := mem.wfFrom 0

/-- The memory whose addresses below `n` hold what `f` gives and whose others hold the unlisted value. -/
def Memory.fill (f : Byte → Byte) : Nat → Memory
  | 0 => []
  | n + 1 => (Memory.fill f n).write (BitVec.ofNat 8 n) (f (BitVec.ofNat 8 n))

end Sys2Proof.Machine
end

