-- ==== Sys2Proof/Machine/State.lean ====
section
/-! DEFINITION. The state of the machine as plain data (spec 10_state.md), its reset value, and the reasons a step can
stop. -/

namespace Sys2Proof.Machine

/-- R208: the Power On-Off Switch. -/
inductive Power where
  | on
  | off
  deriving DecidableEq, Repr

/-- R35, R36, R241: the internal control circuits: undefined after power-on, defined once Start and, if the machine then
stays in the Run state, Stop have been pressed (log 4). -/
inductive Circuits where
  /-- after power-on, before Start -/
  | undefined
  /-- Start has been pressed and the machine has stayed in the Run state: still undefined until it leaves it -/
  | started
  /-- the procedure is done -/
  | initialised
  deriving DecidableEq, Repr

/-- R210 to R223: what the operator does at the console; each press is one event (R60). -/
inductive ConsoleEvent where
  /-- R212: Data Pushbutton i -/
  | dataButton (i : Fin 8)
  /-- R213 -/
  | clear
  /-- R214 -/
  | addressSet
  /-- R215 -/
  | addressDisplay
  /-- R216 -/
  | memoryRead
  /-- R217 -/
  | memoryStore
  /-- R220 -/
  | start
  /-- R221 -/
  | stop
  /-- R223: Stop held down, Start pushed and released -/
  | singleStep
  /-- R240: power is applied -/
  | powerOn
  /-- R208: power is turned off -/
  | powerOff
  deriving DecidableEq, Repr

/-- R60, R202: who moves next. -/
inductive Turn where
  /-- the processor: one instruction in the Run state -/
  | processor
  /-- the operator: one console event -/
  | operator (e : ConsoleEvent)
  deriving DecidableEq, Repr

/-- The state. The registers A, B, X and P, the Output and Input Registers and the three Overflow and Carry bytes are
bytes of `mem` (R8, R20 to R28) and have no other home. -/
structure State where
  /-- R20: the 256 bytes of memory -/
  mem : Memory
  /-- R30: Run or Halt -/
  run : RunState
  /-- R32: the console's Address Register -/
  ar : Byte
  /-- R33: the display selection -/
  sel : Sel
  /-- R34: the byte last read by Memory Read -/
  memShown : Byte
  /-- R35: the internal control circuits -/
  circuits : Circuits
  /-- R208: power -/
  power : Power
  /-- R4: the parameters the spec opens (the model's own field, log 6); no step changes them -/
  params : Params
  /-- how many free values have been drawn (the model's own field, log 7) -/
  draws : Nat
  /-- the turns still to come; empty means the processor's (the model's own field, log 8) -/
  schedule : List Turn
  deriving DecidableEq, Repr

/-- The faults of the machine: none. R200: no instruction can fault, and nothing in the machine is a fault. -/
inductive Fault where
  deriving DecidableEq, Repr

/-- The refusals: presses the spec gives no move, and exec's arms not modelled. -/
inductive Refusal where
  /-- raised by exec's arm of an instruction that has no meaning yet; safe -/
  | notModelled (mnemonic : String)
  /-- R219, raised by the console: Address Set, Address Display, Memory Read, Memory Store, Start (but for the power-on
  procedure's one) or a single step in the Run state; safe, the spec gives no move -/
  | undescribedInRun
  /-- R219, raised by the console: Stop alone in the Halt state; safe, the spec gives no move -/
  | stopInHalt
  /-- raised by the console: a pushbutton pressed while power is off; safe, the spec describes none (log 10) -/
  | pressWhileOff
  /-- raised by the console: the power switch turned to where it stands; safe, not an event of the machine (log 10) -/
  | switchAlreadySet
  deriving DecidableEq, Repr

/-- The outcome of a step of this machine. -/
abbrev Outcome := Host.Outcome State Fault Refusal

/-- R36, R240: the machine right after reset, which is applying power. The control circuits are undefined, as R36
states; memory, `run`, `ar`, `sel` and `memShown` have no value in the spec and hold the values log 1, 2 and 3 name
(DESIGN CHOICE, unsafe). The operator's power-on event draws them free instead (log 7). -/
def State.reset : State where
  mem := []
  run := .halt
  ar := 0
  sel := .none
  memShown := 0
  circuits := .undefined
  power := .on
  params := Params.default
  draws := 0
  schedule := []

end Sys2Proof.Machine
end

