-- ==== Sys2Proof/Machine/Ops.lean ====
section
/-! DEFINITION. The named operations over memory, the registers (bytes of memory) and the state outside memory. The
machine has no exception and no return from one (spec 60_exceptions.md R200 to R204), so no operation takes one. -/

namespace Sys2Proof.Machine

/-- R20: the special locations. -/
abbrev addrA : Byte := 0o000
abbrev addrB : Byte := 0o001
abbrev addrX : Byte := 0o002
abbrev addrP : Byte := 0o003
abbrev addrOut : Byte := 0o200
abbrev addrIn : Byte := 0o377

/-- R21 to R23: a designated register is the memory byte at its address. -/
def regAddr : Reg → Byte
  | .a => addrA
  | .b => addrB
  | .x => addrX

/-- R87: the register of a shift or rotate. -/
def shiftRegAddr : ShiftReg → Byte
  | .a => addrA
  | .b => addrB

/-- R26: the Overflow and Carry byte of a register, `0o201 + r`. -/
def flagAddr : Reg → Byte
  | .a => 0o201
  | .b => 0o202
  | .x => 0o203

/-- R8: `MemRead(a, 1)`. -/
def State.read (s : State) (a : Byte) : Byte := s.mem.read a

/-- R8: `MemWrite(a, 1, v)`. -/
def State.write (s : State) (a v : Byte) : State := { s with mem := s.mem.write a v }

/-- R24, R27: the P Register; while an instruction executes it holds the address `p` of its first byte. -/
def State.pc (s : State) : Byte := s.read addrP

/-- R8: `pc <- v`. -/
def State.setPc (s : State) (v : Byte) : State := s.write addrP v

/-- R111: `advance(n)` adds n to what location 0o003 holds after the instruction's other writes. -/
def State.advance (s : State) (n : Byte) : State := s.setPc (s.pc + n)

/-- R142 to R145, R151, R152: P goes to `target` where `taken` holds, else past the two bytes. -/
def State.branch (s : State) (taken : Bool) (target : Byte) : State :=
  if taken then s.setPc target else s.advance 2

/-- R241: what Start does to the control circuits: the first step of the power-on procedure (log 4). -/
def Circuits.afterStart : Circuits → Circuits
  | .undefined => .started
  | .started => .started
  | .initialised => .initialised

/-- R35, R241: what the end of the Run state does to the control circuits: once Start has been pressed, Stop, or a machine
that did not stay in the Run state, completes the power-on procedure (log 4). -/
def Circuits.afterHalt : Circuits → Circuits
  | .undefined => .undefined
  | .started => .initialised
  | .initialised => .initialised

/-- R172, R221: the Run state ends; no Control Lamp is lit (R211). -/
def State.enterHalt (s : State) : State := { s with run := .halt, sel := .none, circuits := s.circuits.afterHalt }

/-- R220, R222: the Run state begins, the Run lamp lights, the Address Register takes a free value. -/
def State.enterRun (s : State) : State :=
  { s with run := .run, sel := .run, ar := Config.arAfterStart s.draws, circuits := s.circuits.afterStart
           draws := s.draws + 1 }

/-- R211: the Control Lamps after an event that lights a stated one. -/
def State.light (s : State) (sel : Sel) : State := { s with sel := sel }

/-- R211: the Control Lamps after an event for which no lamp is stated: a free value. -/
def State.lightFree (s : State) : State := { s with sel := Config.selAfterPress s.draws, draws := s.draws + 1 }

/-- R32: write of the Address Register. -/
def State.setAr (s : State) (v : Byte) : State := { s with ar := v }

/-- R34: the byte held for display. -/
def State.latchShown (s : State) (v : Byte) : State := { s with memShown := v }

/-- R60: the turns that remain. -/
def State.withSchedule (s : State) (turns : List Turn) : State := { s with schedule := turns }

/-- R36, R208, R240: all state is lost: memory, `run`, `ar`, `sel` and `memShown` take free values and the control
circuits are undefined; `p` is where the switch stands afterwards (log 5, log 7). -/
def State.loseAll (s : State) (p : Power) : State :=
  { s with
    mem := Memory.fill (Config.memPowerOn s.draws) 256
    run := Config.runPowerOn s.draws
    ar := Config.arPowerOn s.draws
    sel := Config.selPowerOn s.draws
    memShown := Config.shownPowerOn s.draws
    circuits := .undefined
    power := p
    draws := s.draws + 1 }

end Sys2Proof.Machine
end

