-- ==== Sys2Proof/Machine/Flags.lean ====
section
/-! DEFINITION. The Overflow and Carry computations (spec 10_state.md R26, 41_add_sub_load_store.md R120 to R122). -/

namespace Sys2Proof.Machine

/-- R26: a flag byte, CA in b1, OF in b0, the other six bits zero. -/
def flagByte (ca ov : Bool) : Byte := (0 : BitVec 6) ++ BitVec.ofBool ca ++ BitVec.ofBool ov

/-- R121: the carry out of b7 of a 9 bit sum. -/
def addCarry (a v : Byte) : Bool := decide (256 ≤ (a.zeroExtend 9 + v.zeroExtend 9).toNat)

/-- R121: the operands' signs equal, the result's different. -/
def addOverflow (a v : Byte) : Bool := (a.msb == v.msb) && ((a + v).msb != a.msb)

/-- R122: a borrow was needed. -/
def subBorrow (a v : Byte) : Bool := decide (a.toNat < v.toNat)

/-- R122: the operands' signs differ, and the result's differs from the register's. -/
def subOverflow (a v : Byte) : Bool := (a.msb != v.msb) && ((a - v).msb != a.msb)

/-- R122: CA after SUB, by the parameter `P_SUB_CA`. -/
def subCarryBit (polarity : SubCarry) (a v : Byte) : Bool :=
  match polarity with
  | .borrow => subBorrow a v
  | .notBorrow => !subBorrow a v

/-- R121: the flag byte ADD writes. -/
def addFlags (a v : Byte) : Byte := flagByte (addCarry a v) (addOverflow a v)

/-- R122: the flag byte SUB writes. -/
def subFlags (polarity : SubCarry) (a v : Byte) : Byte := flagByte (subCarryBit polarity a v) (subOverflow a v)

end Sys2Proof.Machine
end

