-- ==== Sys2Proof/Machine/Operands.lean ====
section
/-! DEFINITION. The operand forms: the five addressing modes, jump targets and conditions, bit selection, shift
counts (spec 40_addressing_modes.md, 43_jumps.md, 44_skip_set.md, 45_shift_rotate.md). -/

namespace Sys2Proof.Machine

/-- R112: `ea(m)`, the effective address; sums are modulo 256 (R55). -/
def State.effectiveAddress (s : State) (m : Mode) (b2 : Byte) : Byte :=
  match m with
  | .constant => s.pc + 1
  | .memory => b2
  | .indirect => s.read b2
  | .indexed => b2 + s.read addrX
  | .indirectIndexed => s.read b2 + s.read addrX

/-- R112: the operand an instruction reads. -/
def State.operand (s : State) (m : Mode) (b2 : Byte) : Byte := s.read (s.effectiveAddress m b2)

/-- R141: `cond(c, v)`. -/
def condHolds (c : Cond) (v : Byte) : Bool :=
  match c with
  | .nonZero => v != 0
  | .zero => v == 0
  | .negative => v.msb
  | .positive => !v.msb
  | .positiveNonZero => !v.msb && v != 0

/-- R141: `taken`, from the tested register's value; an unconditional jump ignores its condition. -/
def State.jumpTaken (s : State) (t : JumpTest) (c : Cond) : Bool :=
  match t with
  | .reg r => condHolds c (s.read (regAddr r))
  | .unconditional => true

/-- R150, R153, R154: the byte with only bit k set. -/
def bitMask (k : Fin 8) : Byte := (1 : Byte) <<< k.val

/-- R150: bit k of a byte. -/
def bitOf (v : Byte) (k : Fin 8) : Bool := v.getLsbD k.val

/-- R160: the place count as a number. -/
def placeCount : Places → Nat
  | .one => 1
  | .two => 2
  | .three => 3
  | .four => 4

/-- R161: zeros come in on the right. -/
def shiftLeft (v : Byte) (n : Places) : Byte := v <<< placeCount n

/-- R162: the sign bit is copied into the vacated places. -/
def shiftRight (v : Byte) (n : Places) : Byte := v.sshiftRight (placeCount n)

/-- R163. -/
def rotateLeft (v : Byte) (n : Places) : Byte := v.rotateLeft (placeCount n)

/-- R164. -/
def rotateRight (v : Byte) (n : Places) : Byte := v.rotateRight (placeCount n)

/-- R173: `P_NOOP31_LEN` as what P advances by. -/
def State.noop31Advance (s : State) : Byte := BitVec.ofNat 8 s.params.noop31Length.toNat

end Sys2Proof.Machine
end

