-- ==== Sys2Proof/Machine/Arith.lean ====
section
/-! DEFINITION. ADD, SUB, LOAD, STORE (spec 41_add_sub_load_store.md). All reads are of the state before the
instruction; the writes go in the order result, flag byte, P (20_memory.md R59). -/

namespace Sys2Proof.Machine

/-- R121: ADD. -/
def execAdd (r : Reg) (m : Mode) (b2 : Byte) (s : State) : Outcome :=
  let a := s.read (regAddr r)
  let v := s.operand m b2
  .next (((s.write (regAddr r) (a + v)).write (flagAddr r) (addFlags a v)).advance 2)

/-- R122: SUB. -/
def execSub (r : Reg) (m : Mode) (b2 : Byte) (s : State) : Outcome :=
  let a := s.read (regAddr r)
  let v := s.operand m b2
  .next (((s.write (regAddr r) (a - v)).write (flagAddr r) (subFlags s.params.subCarry a v)).advance 2)

/-- R123: LOAD. -/
def execLoad (r : Reg) (m : Mode) (b2 : Byte) (s : State) : Outcome :=
  .next ((s.write (regAddr r) (s.operand m b2)).advance 2)

/-- R124: STORE; the advance reads location 0o003 after the store (R111). -/
def execStore (r : Reg) (m : Mode) (b2 : Byte) (s : State) : Outcome :=
  .next ((s.write (s.effectiveAddress m b2) (s.read (regAddr r))).advance 2)

end Sys2Proof.Machine
end

