-- ==== Sys2Proof/Machine/Bit.lean ====
section
/-! DEFINITION. SKP 0, SKP 1, SET 0, SET 1 (spec 44_skip_set.md); the second byte is the address. -/

namespace Sys2Proof.Machine

/-- R151: Skip on Zero. -/
def execSkp0 (k : Fin 8) (b2 : Byte) (s : State) : Outcome :=
  .next (s.branch (!bitOf (s.read b2) k) (s.pc + 4))

/-- R152: Skip on One. -/
def execSkp1 (k : Fin 8) (b2 : Byte) (s : State) : Outcome :=
  .next (s.branch (bitOf (s.read b2) k) (s.pc + 4))

/-- R153: SET 0; the advance reads location 0o003 after the write (R111). -/
def execSet0 (k : Fin 8) (b2 : Byte) (s : State) : Outcome :=
  .next ((s.write b2 (s.read b2 &&& ~~~ bitMask k)).advance 2)

/-- R154: SET 1. -/
def execSet1 (k : Fin 8) (b2 : Byte) (s : State) : Outcome :=
  .next ((s.write b2 (s.read b2 ||| bitMask k)).advance 2)

end Sys2Proof.Machine
end

