-- ==== Sys2Proof/Machine/Jump.lean ====
section
/-! DEFINITION. JPD, JPI, JMD, JMI (spec 43_jumps.md). -/

namespace Sys2Proof.Machine

/-- R144, R145: where `taken`, the address p + 2 is stored at the target and P becomes the target plus one. -/
def State.jumpAndMark (s : State) (taken : Bool) (target : Byte) : State :=
  if taken then (s.write target (s.pc + 2)).setPc (target + 1) else s.advance 2

/-- R142: Jump Direct. -/
def execJpd (t : JumpTest) (c : Cond) (b2 : Byte) (s : State) : Outcome :=
  .next (s.branch (s.jumpTaken t c) b2)

/-- R143: Jump Indirect. -/
def execJpi (t : JumpTest) (c : Cond) (b2 : Byte) (s : State) : Outcome :=
  .next (s.branch (s.jumpTaken t c) (s.read b2))

/-- R144: Jump and Mark Direct. -/
def execJmd (t : JumpTest) (c : Cond) (b2 : Byte) (s : State) : Outcome :=
  .next (s.jumpAndMark (s.jumpTaken t c) b2)

/-- R145: Jump and Mark Indirect; the target is formed before the mark is stored. -/
def execJmi (t : JumpTest) (c : Cond) (b2 : Byte) (s : State) : Outcome :=
  .next (s.jumpAndMark (s.jumpTaken t c) (s.read b2))

end Sys2Proof.Machine
end

