-- ==== Sys2Proof/Machine/Logic.lean ====
section
/-! DEFINITION. AND, OR, LNEG (spec 42_and_or_lneg.md); the destination is A, no flag byte is written. -/

namespace Sys2Proof.Machine

/-- R131: AND. -/
def execAnd (m : Mode) (b2 : Byte) (s : State) : Outcome :=
  .next ((s.write addrA (s.read addrA &&& s.operand m b2)).advance 2)

/-- R132: inclusive OR. -/
def execOr (m : Mode) (b2 : Byte) (s : State) : Outcome :=
  .next ((s.write addrA (s.read addrA ||| s.operand m b2)).advance 2)

/-- R133: LNEG, the operand subtracted from zero. -/
def execLneg (m : Mode) (b2 : Byte) (s : State) : Outcome :=
  .next ((s.write addrA (0 - s.operand m b2)).advance 2)

end Sys2Proof.Machine
end

