-- ==== Sys2Proof/Machine/Misc.lean ====
section
/-! DEFINITION. NOOP, HALT and the codes 0o313 to 0o317 (spec 46_noop_halt.md). -/

namespace Sys2Proof.Machine

/-- R171: NOOP; the don't-care bits are ignored. -/
def execNoop (_dontCare : BitVec 4) (s : State) : Outcome := .next (s.advance 1)

/-- R172: HALT; P is advanced, then the Run state ends. -/
def execHalt (_dontCare : BitVec 4) (s : State) : Outcome := .next (s.advance 1).enterHalt

/-- R173: the codes 0o313 to 0o317 change nothing but P, which advances by `P_NOOP31_LEN`. -/
def execNoop31 (_m : Mode) (_second : Option Byte) (s : State) : Outcome := .next (s.advance s.noop31Advance)

end Sys2Proof.Machine
end

