-- ==== Sys2Proof/Machine/Shift.lean ====
section
/-! DEFINITION. SFTL, SFTR, ROTL, ROTR (spec 45_shift_rotate.md); one byte each, no flag byte is written. -/

namespace Sys2Proof.Machine

/-- R160: the shifted register is written and P advances by one. -/
def State.shiftReg (s : State) (g : ShiftReg) (f : Byte → Byte) : State :=
  (s.write (shiftRegAddr g) (f (s.read (shiftRegAddr g)))).advance 1

/-- R161: Shift Left. -/
def execSftl (g : ShiftReg) (n : Places) (s : State) : Outcome := .next (s.shiftReg g fun v => shiftLeft v n)

/-- R162: Shift Right, arithmetic. -/
def execSftr (g : ShiftReg) (n : Places) (s : State) : Outcome := .next (s.shiftReg g fun v => shiftRight v n)

/-- R163: Rotate Left. -/
def execRotl (g : ShiftReg) (n : Places) (s : State) : Outcome := .next (s.shiftReg g fun v => rotateLeft v n)

/-- R164: Rotate Right. -/
def execRotr (g : ShiftReg) (n : Places) (s : State) : Outcome := .next (s.shiftReg g fun v => rotateRight v n)

end Sys2Proof.Machine
end

