-- ==== Sys2Proof/Machine/Dispatch.lean ====
section
/-! DEFINITION. exec: one arm per constructor of Instr, each one direct call of its meaning. -/

namespace Sys2Proof.Machine

def exec (i : Instr) (s : State) : Host.Outcome State Fault Refusal :=
  match i with
  | .add r m b2 => Sys2Proof.Machine.execAdd r m b2 s
  | .sub r m b2 => Sys2Proof.Machine.execSub r m b2 s
  | .load r m b2 => Sys2Proof.Machine.execLoad r m b2 s
  | .store r m b2 => Sys2Proof.Machine.execStore r m b2 s
  | .and m b2 => Sys2Proof.Machine.execAnd m b2 s
  | .or m b2 => Sys2Proof.Machine.execOr m b2 s
  | .lneg m b2 => Sys2Proof.Machine.execLneg m b2 s
  | .noop31 m second => Sys2Proof.Machine.execNoop31 m second s
  | .jpd t c b2 => Sys2Proof.Machine.execJpd t c b2 s
  | .jpi t c b2 => Sys2Proof.Machine.execJpi t c b2 s
  | .jmd t c b2 => Sys2Proof.Machine.execJmd t c b2 s
  | .jmi t c b2 => Sys2Proof.Machine.execJmi t c b2 s
  | .skp0 k b2 => Sys2Proof.Machine.execSkp0 k b2 s
  | .skp1 k b2 => Sys2Proof.Machine.execSkp1 k b2 s
  | .set0 k b2 => Sys2Proof.Machine.execSet0 k b2 s
  | .set1 k b2 => Sys2Proof.Machine.execSet1 k b2 s
  | .sftl g n => Sys2Proof.Machine.execSftl g n s
  | .sftr g n => Sys2Proof.Machine.execSftr g n s
  | .rotl g n => Sys2Proof.Machine.execRotl g n s
  | .rotr g n => Sys2Proof.Machine.execRotr g n s
  | .noop x => Sys2Proof.Machine.execNoop x s
  | .halt x => Sys2Proof.Machine.execHalt x s

end Sys2Proof.Machine
end

