-- ==== Sys2Proof/Machine/Cycle.lean ====
section
/-! DEFINITION. The instruction cycle (spec 40_addressing_modes.md R110): fetch, decode, execute. -/

namespace Sys2Proof.Machine

/-- R110, R55: the byte P points at and the byte after it. A one byte instruction does not use the second; reading it
has no effect (R57). -/
def State.fetch (s : State) : Byte × Byte := (s.read s.pc, s.read (s.pc + 1))

/-- R110: the instruction that stands at P. -/
def State.nextInstr (s : State) : Instr := decodePair s.params.noop31Length s.fetch.1 s.fetch.2

/-- R110: one step of the machine in the Run state. -/
def instructionCycle (s : State) : Outcome := exec s.nextInstr s

/-- R30, R208, R110: the processor's turn: one instruction where power is on and `run = Run`; otherwise no instruction
executes and nothing changes (log 9). -/
def processorTurn (s : State) : Outcome :=
  match s.power, s.run with
  | .on, .run => instructionCycle s
  | .on, .halt => .next s
  | .off, _ => .next s

end Sys2Proof.Machine
end

