-- ==== Sys2Proof/Machine/Console.lean ====
section
/-! DEFINITION. The operator's console (spec 60_exceptions.md R209 to R225, 70_reset_and_hazards.md R240, R241). -/

namespace Sys2Proof.Machine

/-- R210: the byte the eight Console Data Lamps show. -/
def State.dataLamps (s : State) : Byte :=
  match s.sel with
  | .input => s.read addrIn
  | .address => s.ar
  | .memory => s.memShown
  | .run => s.read addrOut
  | .none => s.read addrOut

/-- R218: while Clear or a Data Pushbutton is held down in the Run state the lamps show location 0o377 predominantly
and location 0o200 as a fainter light. -/
def State.lampsWhileHeld (s : State) : Byte × Byte := (s.read addrIn, s.read addrOut)

/-- R212: Data Pushbutton i sets bit i of location 0o377. -/
def State.pressData (s : State) (i : Fin 8) : State := s.write addrIn (s.read addrIn ||| (1 : Byte) <<< i.val)

/-- R213: Clear erases location 0o377. -/
def State.pressClear (s : State) : State := s.write addrIn 0

/-- R214: Address Set. -/
def State.pressAddressSet (s : State) : State := (s.setAr (s.read addrIn)).lightFree

/-- R215: Address Display. -/
def State.pressAddressDisplay (s : State) : State := s.light .address

/-- R216: Memory Read. -/
def State.pressMemoryRead (s : State) : State := ((s.latchShown (s.read s.ar)).light .memory).setAr (s.ar + 1)

/-- R217: Memory Store. -/
def State.pressMemoryStore (s : State) : State := ((s.write s.ar (s.read addrIn)).setAr (s.ar + 1)).lightFree

/-- R223: exactly one instruction, then Halt. -/
def singleStep (s : State) : Outcome :=
  match instructionCycle s.enterRun with
  | .next t => .next t.enterHalt
  | .fault f => .fault f
  | .refused r => .refused r

/-- R219, R241: Start in the Run state is the power-on procedure's one Start while the control circuits are undefined
(log 4); any other has no move. -/
def startInRun (s : State) : Outcome :=
  match s.circuits with
  | .undefined => .next s.enterRun
  | .started => .refused .undescribedInRun
  | .initialised => .refused .undescribedInRun

/-- R225, rows "Run": the events of the Run state. -/
def pressInRun (e : ConsoleEvent) (s : State) : Outcome :=
  match e with
  | .dataButton i => .next (s.pressData i)
  | .clear => .next s.pressClear
  | .stop => .next s.enterHalt
  | .start => startInRun s
  | .addressSet => .refused .undescribedInRun
  | .addressDisplay => .refused .undescribedInRun
  | .memoryRead => .refused .undescribedInRun
  | .memoryStore => .refused .undescribedInRun
  | .singleStep => .refused .undescribedInRun
  | .powerOn => .refused .switchAlreadySet
  | .powerOff => .next (s.loseAll .off)

/-- R225, rows "Halt": the events of the Halt state. -/
def pressInHalt (e : ConsoleEvent) (s : State) : Outcome :=
  match e with
  | .dataButton i => .next ((s.pressData i).light .input)
  | .clear => .next (s.pressClear.light .input)
  | .addressSet => .next s.pressAddressSet
  | .addressDisplay => .next s.pressAddressDisplay
  | .memoryRead => .next s.pressMemoryRead
  | .memoryStore => .next s.pressMemoryStore
  | .start => .next s.enterRun
  | .stop => .refused .stopInHalt
  | .singleStep => singleStep s
  | .powerOn => .refused .switchAlreadySet
  | .powerOff => .next (s.loseAll .off)

/-- R208: while power is off only the switch does anything. -/
def pressWhileOff (e : ConsoleEvent) (s : State) : Outcome :=
  match e with
  | .powerOn => .next (s.loseAll .on)
  | .powerOff => .refused .switchAlreadySet
  | .dataButton _ => .refused .pressWhileOff
  | .clear => .refused .pressWhileOff
  | .addressSet => .refused .pressWhileOff
  | .addressDisplay => .refused .pressWhileOff
  | .memoryRead => .refused .pressWhileOff
  | .memoryStore => .refused .pressWhileOff
  | .start => .refused .pressWhileOff
  | .stop => .refused .pressWhileOff
  | .singleStep => .refused .pressWhileOff

/-- R60, R225: one console event, wholly between two instructions. -/
def operatorTurn (e : ConsoleEvent) (s : State) : Outcome :=
  match s.power, s.run with
  | .on, .run => pressInRun e s
  | .on, .halt => pressInHalt e s
  | .off, _ => pressWhileOff e s

/-- R60: the turn the schedule names, and the processor's where it names none. -/
def turn (s : State) : Outcome :=
  match s.schedule with
  | [] => processorTurn s
  | .processor :: rest => processorTurn (s.withSchedule rest)
  | .operator e :: rest => operatorTurn e (s.withSchedule rest)

/-- Where `State.withFetchWord` puts an instruction: at P, but at 0o004 where P is 0o002 or 0o003, since the bytes would
then lie over P itself (log 11). -/
def State.placeForWord (s : State) : Byte := if s.pc = 0o002 ∨ s.pc = 0o003 then 0o004 else s.pc

/-- The state in which the processor's next turn fetches these two bytes. -/
def State.placeInstr (s : State) (b1 b2 : Byte) : State :=
  { ((s.setPc s.placeForWord).write s.placeForWord b1).write (s.placeForWord + 1) b2 with
    run := .run, power := .on, schedule := [] }

end Sys2Proof.Machine
end

