-- ==== Sys2Proof/Machine/Step.lean ====
section
/-! DEFINITION. The step of the machine, and where the host stores an instruction for it. -/

namespace Sys2Proof.Machine

/-- R60, R110: one turn: an instruction, or a console event, as the schedule says. -/
def step (s : State) : Host.Outcome State Fault Refusal := turn s

/-- s with the instruction of an opcode-table word stored where the next step fetches, power on, in the Run state, with
no console event pending: it stands for loading the program and pressing Start (log 11). -/
def State.withFetchWord (s : State) (nbits w : Nat) : State :=
  s.placeInstr (tableBytes nbits w).1 (tableBytes nbits w).2

end Sys2Proof.Machine
end

