-- ==== Sys2Proof/Safety.lean ====
section
/-! DEFINITION. The terms the statements use: what an instruction may write, frames, the loading sequence of the
console, runs of several turns. -/

namespace Sys2Proof.Machine

/-- Every byte of memory outside `written` reads after as it read before. -/
def UnchangedExcept (s t : State) (written : List Byte) : Prop :=
  ∀ a : Byte, a ∉ written → t.read a = s.read a

/-- Every field of the state beside memory is the same. -/
def SameBesideMemory (s t : State) : Prop := { t with mem := s.mem } = s

/-- The addresses an instruction stores to beside the advance or jump of P: its register or memory destination and, for
ADD and SUB, the flag byte; computed by the functions its meaning uses. -/
def storesTo (i : Instr) (s : State) : List Byte :=
  match i with
  | .add r _ _ => [regAddr r, flagAddr r]
  | .sub r _ _ => [regAddr r, flagAddr r]
  | .load r _ _ => [regAddr r]
  | .store _ m b2 => [s.effectiveAddress m b2]
  | .and _ _ => [addrA]
  | .or _ _ => [addrA]
  | .lneg _ _ => [addrA]
  | .noop31 _ _ => []
  | .jpd _ _ _ => []
  | .jpi _ _ _ => []
  | .jmd t c b2 => if s.jumpTaken t c then [b2] else []
  | .jmi t c b2 => if s.jumpTaken t c then [s.read b2] else []
  | .skp0 _ _ => []
  | .skp1 _ _ => []
  | .set0 _ b2 => [b2]
  | .set1 _ b2 => [b2]
  | .sftl g _ => [shiftRegAddr g]
  | .sftr g _ => [shiftRegAddr g]
  | .rotl g _ => [shiftRegAddr g]
  | .rotr g _ => [shiftRegAddr g]
  | .noop _ => []
  | .halt _ => []

/-- The machine is on, in the Run state, and the processor moves next. -/
def State.Running (s : State) : Prop := s.power = .on ∧ s.run = .run ∧ s.schedule = []

/-- The machine is on and in the Halt state. -/
def State.Halted (s : State) : Prop := s.power = .on ∧ s.run = .halt

/-- `k` steps, each of which answers a next state. -/
def stepsTo : Nat → State → State → Prop
  | 0, s, t => s = t
  | k + 1, s, t => ∃ m, step s = .next m ∧ stepsTo k m t

/-- R243: "Enter nnn": the Data Pushbuttons of the One bits of a byte. -/
def enterButtons (v : Byte) : List Turn :=
  ((List.finRange 8).filter fun i => v.getLsbD i.val).map fun i => .operator (.dataButton i)

/-- R243: Clear, then the Data Pushbuttons of a byte's One bits. -/
def enterByte (v : Byte) : List Turn := .operator .clear :: enterButtons v

/-- R243: Clear, Enter the byte, Store, for each byte in turn. -/
def storeBytes : List Byte → List Turn
  | [] => []
  | v :: rest => enterByte v ++ .operator .memoryStore :: storeBytes rest

/-- R242, R243: enter the first address, Address Set, then store the bytes one after another. -/
def loadProgram (first : Byte) (bytes : List Byte) : List Turn :=
  enterByte first ++ .operator .addressSet :: storeBytes bytes

end Sys2Proof.Machine
end

