-- ==== Sys2Proof/Certificates/Slice0/Obligations.lean ====
section
/-! DEFINITION. The statements for the provers. Sums of bytes are modulo 256, as the spec's rules write them (R8, R55; the
spec's own decision D1, log 12). `s.pc` is the byte at location 0o003, which holds the address of the instruction while
it executes (R27, D2, log 13). -/

open Sys2Proof Sys2Proof.Machine

/-! ### Encoding -/

/-- Decode and encode agree (30_encoding.md section 2): every instruction is read back from its bytes, whatever stands
after them, for both values of `P_NOOP31_LEN`. -/
def Obligations.DecodeOfEncodeIsTheInstruction : Prop :=
  ∀ (len : Noop31Length) (i : Instr) (rest : List Byte), i.wellFormed len = true →
    decode len (encode i ++ rest) = .ok (i, rest)

/-- The other direction: the bytes that were read are the encoding of what they were read as, as many of them as R82 says,
and what they are read as is well formed. -/
def Obligations.EncodeOfDecodeIsTheBytes : Prop :=
  ∀ (len : Noop31Length) (b1 b2 : Byte),
    encode (decodePair len b1 b2) = [b1, b2].take (instrLength len b1) ∧
      (decodePair len b1 b2).wellFormed len = true

/-- R91: no byte is an illegal encoding: two bytes and more always decode; a list is rejected only where it ends before
the instruction does. -/
def Obligations.EveryFirstByteDecodes : Prop :=
  ∀ (len : Noop31Length) (b1 b2 : Byte) (rest : List Byte),
    decode len (b1 :: b2 :: rest) = .ok (decodePair len b1 b2, (b1 :: b2 :: rest).drop (instrLength len b1)) ∧
      (decode len [b1] = .error .noSecondByte ↔ instrLength len b1 = 2) ∧
      decode len [] = .error .noFirstByte

/-- R90, the map of first bytes by mask and match, as the opcode table has them: which first bytes are HALT, NOOP, the
shifts and rotates, SET and SKP; every other first byte has D3 in 3 to 7 and is a jump exactly when b5 is set. -/
def Obligations.FirstByteSelectsByMask : Prop :=
  ∀ (len : Noop31Length) (b1 b2 : Byte),
    ((b1 &&& 0o207 = 0o000) ↔ ∃ x, decodePair len b1 b2 = .halt x) ∧
    ((b1 &&& 0o207 = 0o200) ↔ ∃ x, decodePair len b1 b2 = .noop x) ∧
    ((b1 &&& 0o307 = 0o001) ↔ ∃ g n, decodePair len b1 b2 = .sftr g n) ∧
    ((b1 &&& 0o307 = 0o101) ↔ ∃ g n, decodePair len b1 b2 = .rotr g n) ∧
    ((b1 &&& 0o307 = 0o201) ↔ ∃ g n, decodePair len b1 b2 = .sftl g n) ∧
    ((b1 &&& 0o307 = 0o301) ↔ ∃ g n, decodePair len b1 b2 = .rotl g n) ∧
    ((b1 &&& 0o307 = 0o002) ↔ ∃ k, decodePair len b1 b2 = .set0 k b2) ∧
    ((b1 &&& 0o307 = 0o102) ↔ ∃ k, decodePair len b1 b2 = .set1 k b2) ∧
    ((b1 &&& 0o307 = 0o202) ↔ ∃ k, decodePair len b1 b2 = .skp0 k b2) ∧
    ((b1 &&& 0o307 = 0o302) ↔ ∃ k, decodePair len b1 b2 = .skp1 k b2) ∧
    ((3 ≤ (b1 &&& 0o007).toNat ∧ b1 &&& 0o070 = 0o040) ↔ ∃ t c, decodePair len b1 b2 = .jpd t c b2) ∧
    ((3 ≤ (b1 &&& 0o007).toNat ∧ b1 &&& 0o070 = 0o050) ↔ ∃ t c, decodePair len b1 b2 = .jpi t c b2) ∧
    ((3 ≤ (b1 &&& 0o007).toNat ∧ b1 &&& 0o070 = 0o060) ↔ ∃ t c, decodePair len b1 b2 = .jmd t c b2) ∧
    ((3 ≤ (b1 &&& 0o007).toNat ∧ b1 &&& 0o070 = 0o070) ↔ ∃ t c, decodePair len b1 b2 = .jmi t c b2) ∧
    ((3 ≤ (b1 &&& 0o007).toNat ∧ b1 &&& 0o370 = 0o310) ↔ ∃ m second, decodePair len b1 b2 = .noop31 m second)

/-- Words written out from the spec's encodings decode to the instructions they stand for: the three of the source's
example program and one of each other family. -/
def Obligations.SampleWordsDecode : Prop :=
  decode .two [0o103, 0o001] = .ok (.add .b .constant 1, []) ∧
  decode .two [0o134, 0o200] = .ok (.store .b .memory 0o200, []) ∧
  decode .two [0o344, 0o004] = .ok (.jpd .unconditional .zero 4, []) ∧
  decode .two [0o325, 0o050] = .ok (.and .indirect 0o050, []) ∧
  decode .two [0o272, 0o377] = .ok (.skp0 7 0o377, []) ∧
  decode .two [0o071] = .ok (.sftr .b .three, []) ∧
  decode .two [0o170] = .ok (.halt 0b1111, []) ∧
  decode .two [0o314, 0o100] = .ok (.noop31 .memory (some 0o100), []) ∧
  decode .one [0o314, 0o100] = .ok (.noop31 .memory none, [0o100])

/-! ### Reset, memory and invariants -/

/-- What reset leaves: the control circuits undefined (10_state.md section 7); the zero bytes, the Halt state, `AR` 0, no lamp
lit and `mem_shown` 0 are the model's choice (log 1, 2, 3), as is the power standing on (log 5). -/
def Obligations.ResetLeavesTheNamedValues : Prop :=
  (∀ a : Byte, State.reset.read a = 0) ∧ State.reset.run = .halt ∧ State.reset.ar = 0 ∧ State.reset.sel = .none ∧
    State.reset.memShown = 0 ∧ State.reset.circuits = .undefined ∧ State.reset.power = .on

/-- The memory of the reset state is in canonical form. -/
def Obligations.ResetMemoryIsCanonical : Prop := State.reset.mem.wf = true

/-- Every turn, of the processor or of the operator, keeps the memory in canonical form. -/
def Obligations.StepKeepsMemoryCanonical : Prop :=
  ∀ s t : State, s.mem.wf = true → step s = .next t → t.mem.wf = true

/-- The canonical form is one: two canonical memories that read the same at each of the 256 addresses are equal data. -/
def Obligations.CanonicalMemoriesAreEqual : Prop :=
  ∀ m m' : Memory, m.wf = true → m'.wf = true → (∀ a : Byte, m.read a = m'.read a) → m = m'

/-- No turn changes the parameters `P_NOOP31_LEN` and `P_SUB_CA` (00_scope.md section 4). -/
def Obligations.StepKeepsTheParameters : Prop :=
  ∀ s t : State, step s = .next t → t.params = s.params

/-! ### The instruction cycle -/

/-- A step runs the decoded instruction: in the Run state with power on, where the two bytes at P decode to i, the step
is exec of i; where the schedule names the processor's turn first, that turn is taken off it. -/
def Obligations.StepRunsTheDecodedInstruction : Prop :=
  ∀ (s : State) (i : Instr) (after : List Byte), s.power = .on → s.run = .run →
    decode s.params.noop31Length [s.read s.pc, s.read (s.pc + 1)] = .ok (i, after) →
    (s.schedule = [] → step s = exec i s) ∧
    (∀ rest, s.schedule = .processor :: rest → step s = exec i (s.withSchedule rest))

/-- An instruction whose bytes stand at P runs: its first byte at P and, where it has a second one, that byte at
P + 1 modulo 256. -/
def Obligations.StoredInstructionRuns : Prop :=
  ∀ (s : State) (i : Instr), s.Running → i.wellFormed s.params.noop31Length = true →
    (∀ n : Fin 2, ∀ b, (encode i)[n.val]? = some b → s.read (s.pc + BitVec.ofNat 8 n.val) = b) →
    step s = exec i s

/-- In the Halt state, and with power off, no instruction executes: the processor's turn changes nothing, but that a turn
the schedule names is taken off it (10_state.md section 6; that the step answers the same state is the model's choice,
log 9). -/
def Obligations.HaltedMachineExecutesNothing : Prop :=
  ∀ s : State, s.power = .off ∨ s.run = .halt →
    (s.schedule = [] → step s = .next s) ∧
    (∀ rest, s.schedule = .processor :: rest → step s = .next (s.withSchedule rest))

/-- The whole-machine frame and completion: every instruction, with all operands and in every state, answers a next
state; it writes P and the addresses it stores to, no other byte; it leaves every field beside memory as it was, but that
HALT ends the Run state, lights no lamp, and completes a power-on procedure that Start has begun (log 4). -/
def Obligations.EveryInstructionCompletesInItsFrame : Prop :=
  ∀ (i : Instr) (s : State), ∃ t, exec i s = .next t ∧
    UnchangedExcept s t (addrP :: storesTo i s) ∧
    ((∀ x, i ≠ .halt x) → SameBesideMemory s t) ∧
    (∀ x, i = .halt x →
      SameBesideMemory { s with run := .halt, sel := .none, circuits := s.circuits.afterHalt } t)

/-- No instruction can read or write the Address Register or the latched display byte: with other values in them it does
the same and leaves those values. -/
def Obligations.InstructionsCannotSeeConsoleRegisters : Prop :=
  ∀ (i : Instr) (s t : State) (v w : Byte), exec i s = .next t →
    exec i ((s.setAr v).latchShown w) = .next ((t.setAr v).latchShown w)

/-- The Run state lasts until a Halt instruction is encountered or until Stop is pressed (or power is turned off): if a
step leaves the Run state, the turn was the processor's and the instruction at P a HALT, or the turn was one of those two
events. -/
def Obligations.RunStateLastsUntilHaltOrStop : Prop :=
  ∀ s t : State, s.power = .on → s.run = .run → step s = .next t → t.run = .halt →
    ((∃ x, s.nextInstr = .halt x) ∧ (s.schedule = [] ∨ ∃ rest, s.schedule = .processor :: rest)) ∨
    (∃ rest, s.schedule = .operator .stop :: rest) ∨ (∃ rest, s.schedule = .operator .powerOff :: rest)

/-! ### Addressing modes -/

/-- R112: the five addressing modes, their digits and their effective addresses; the operand is the byte there; in
Constant mode it is the second byte of the instruction that was fetched. -/
def Obligations.FiveAddressingModes : Prop :=
  [Mode.constant, .memory, .indirect, .indexed, .indirectIndexed].map (fun m => m.digit.toNat) = [3, 4, 5, 6, 7] ∧
  ∀ (s : State) (b2 : Byte),
    s.effectiveAddress .constant b2 = s.pc + 1 ∧
    s.effectiveAddress .memory b2 = b2 ∧
    s.effectiveAddress .indirect b2 = s.read b2 ∧
    s.effectiveAddress .indexed b2 = b2 + s.read 0o002 ∧
    s.effectiveAddress .indirectIndexed b2 = s.read b2 + s.read 0o002 ∧
    (∀ m, s.operand m b2 = s.read (s.effectiveAddress m b2)) ∧
    (s.fetch.2 = b2 → s.operand .constant b2 = b2)

/-- R185: with P as the pointer and Indirect Indexed mode the operand address is at a distance X from the instruction
itself, and LOAD, 0o027 0o003 for the A Register, loads the byte there. -/
def Obligations.RelativeOperandAddressing : Prop :=
  encode (.load .a .indirectIndexed 0o003) = [0o027, 0o003] ∧
  ∀ (r : Reg) (s : State), s.effectiveAddress .indirectIndexed 0o003 = s.pc + s.read 0o002 ∧
    ∃ t, exec (.load r .indirectIndexed 0o003) s = .next t ∧
      t.read (regAddr r) = s.read (s.pc + s.read 0o002) ∧ t.pc = s.pc + 2

/-- R184: table look-up: LOAD with Indirect mode through a register replaces the destination by the byte at the
address the register holds. -/
def Obligations.TableLookUp : Prop :=
  [encode (.load .a .indirect (regAddr .a)), encode (.load .b .indirect (regAddr .b)),
      encode (.load .x .indirect (regAddr .x)), encode (.load .a .indirect (regAddr .x))] =
    [[0o025, 0o000], [0o125, 0o001], [0o225, 0o002], [0o025, 0o002]] ∧
  ∀ (r q : Reg) (s : State), ∃ t, exec (.load r .indirect (regAddr q)) s = .next t ∧
    t.read (regAddr r) = s.read (s.read (regAddr q)) ∧ t.pc = s.pc + 2

/-! ### ADD, SUB, LOAD, STORE -/

/-- R121: ADD, every register and mode: the sum, the register's flag byte `2*CA + OF` with CA the carry out of the
unsigned sum and OF the true signed sum outside -128 to 127 (the spec's definitions, D16), P + 2, nothing else; and its
encoding. -/
def Obligations.AddWritesSumAndFlags : Prop :=
  ∀ (r : Reg) (m : Mode) (b2 : Byte) (s : State),
    let a := s.read (regAddr r)
    let v := s.read (s.effectiveAddress m b2)
    encode (.add r m b2) = [BitVec.ofNat 8 (64 * (regAddr r).toNat + 8 * 0 + m.digit.toNat), b2] ∧
    ∃ t, exec (.add r m b2) s = .next t ∧
      t.read (regAddr r) = a + v ∧
      t.read (0o201 + regAddr r) = BitVec.ofNat 8
        (2 * (if 255 < a.unsigned + v.unsigned then 1 else 0) +
          (if a.signed + v.signed < -128 ∨ 127 < a.signed + v.signed then 1 else 0)) ∧
      t.pc = s.pc + 2 ∧
      UnchangedExcept s t [regAddr r, 0o201 + regAddr r, addrP] ∧ SameBesideMemory s t

/-- R122: SUB, every register and mode: the difference, the flag byte with OF the true signed difference outside -128 to 127
and CA the borrow, or its complement where `P_SUB_CA` is not_borrow (the spec's decision D4; both values of the
parameter), P + 2, nothing else; and its encoding. -/
def Obligations.SubWritesDifferenceAndFlags : Prop :=
  ∀ (r : Reg) (m : Mode) (b2 : Byte) (s : State),
    let a := s.read (regAddr r)
    let v := s.read (s.effectiveAddress m b2)
    let brw := if a.unsigned < v.unsigned then 1 else 0
    encode (.sub r m b2) = [BitVec.ofNat 8 (64 * (regAddr r).toNat + 8 * 1 + m.digit.toNat), b2] ∧
    ∃ t, exec (.sub r m b2) s = .next t ∧
      t.read (regAddr r) = a - v ∧
      t.read (0o201 + regAddr r) = BitVec.ofNat 8
        (2 * (if s.params.subCarry = .borrow then brw else 1 - brw) +
          (if a.signed - v.signed < -128 ∨ 127 < a.signed - v.signed then 1 else 0)) ∧
      t.pc = s.pc + 2 ∧
      UnchangedExcept s t [regAddr r, 0o201 + regAddr r, addrP] ∧ SameBesideMemory s t

/-- R120: the flag computations say what the source says of them: OF is 1 exactly when the true signed result lies outside
-128 to 127, CA exactly when the true unsigned result is above 255 or below 0 (a borrow), and the results are the low 8
bits of the true ones. -/
def Obligations.FlagsSayTrueResultOutOfRange : Prop :=
  ∀ a v : Byte,
    (addOverflow a v = true ↔ a.signed + v.signed < -128 ∨ 127 < a.signed + v.signed) ∧
    (subOverflow a v = true ↔ a.signed - v.signed < -128 ∨ 127 < a.signed - v.signed) ∧
    (addCarry a v = true ↔ 255 < a.unsigned + v.unsigned) ∧
    (subCarryBit .borrow a v = true ↔ (a.unsigned : Int) - (v.unsigned : Int) < 0) ∧
    ((a + v).unsigned : Int) = (a.signed + v.signed) % 256 ∧
    ((a - v).unsigned : Int) = (a.signed - v.signed) % 256

/-- R123: LOAD, every register and mode: the register takes the operand, P + 2, no flag byte and nothing else
changes; and its encoding. -/
def Obligations.LoadCopiesOperandToRegister : Prop :=
  ∀ (r : Reg) (m : Mode) (b2 : Byte) (s : State),
    encode (.load r m b2) = [BitVec.ofNat 8 (64 * (regAddr r).toNat + 8 * 2 + m.digit.toNat), b2] ∧
    ∃ t, exec (.load r m b2) s = .next t ∧
      t.read (regAddr r) = s.read (s.effectiveAddress m b2) ∧
      t.pc = s.pc + 2 ∧
      UnchangedExcept s t [regAddr r, addrP] ∧ SameBesideMemory s t

/-- R124: STORE, every register and mode: the byte at the effective address takes the register, P + 2, nothing else
changes; where the effective address is location 0o003 itself, P becomes the stored value plus 2 (R111; for modes other
than Memory the spec's decision D3); and its encoding. -/
def Obligations.StoreCopiesRegisterToOperand : Prop :=
  ∀ (r : Reg) (m : Mode) (b2 : Byte) (s : State),
    encode (.store r m b2) = [BitVec.ofNat 8 (64 * (regAddr r).toNat + 8 * 3 + m.digit.toNat), b2] ∧
    ∃ t, exec (.store r m b2) s = .next t ∧
      (s.effectiveAddress m b2 ≠ addrP →
        t.read (s.effectiveAddress m b2) = s.read (regAddr r) ∧ t.pc = s.pc + 2) ∧
      (s.effectiveAddress m b2 = addrP → t.pc = s.read (regAddr r) + 2) ∧
      UnchangedExcept s t [s.effectiveAddress m b2, addrP] ∧ SameBesideMemory s t

/-- R183: a store of n into P in Memory mode continues at n + 2; JPI through a register continues at the address the
register holds, exactly. -/
def Obligations.StoreIntoPIsComputedJump : Prop :=
  encode (.jpi .unconditional .zero (regAddr .a)) = [0o354, 0o000] ∧
  ∀ (r : Reg) (c : Cond) (s : State),
    (∃ t, exec (.store r .memory 0o003) s = .next t ∧
      t.pc = s.read (regAddr r) + 2 ∧ UnchangedExcept s t [addrP] ∧ SameBesideMemory s t) ∧
    (∃ t, exec (.jpi .unconditional c (regAddr r)) s = .next t ∧
      t.pc = s.read (regAddr r) ∧ UnchangedExcept s t [addrP] ∧ SameBesideMemory s t)

/-- R181: ADD r r gives the one place left shift of r; its Carry is the old b7 and its Overflow is set exactly when the
number was larger than 63 or smaller than -64, which is b7 different from b6. -/
def Obligations.AddRegisterToItself : Prop :=
  ∀ (r : Reg) (s : State),
    let v := s.read (regAddr r)
    ∃ t, exec (.add r .memory (regAddr r)) s = .next t ∧
      t.read (regAddr r) = shiftLeft v .one ∧
      ((t.read (flagAddr r)).getLsbD 1 = v.getLsbD 7) ∧
      ((t.read (flagAddr r)).getLsbD 0 = true ↔ 63 < v.signed ∨ v.signed < -64) ∧
      ((t.read (flagAddr r)).getLsbD 0 = (v.getLsbD 7 != v.getLsbD 6))

/-- R180, CLEAR: SUB r r leaves 0 in r, and in its flag byte 0 where `P_SUB_CA` is borrow, CA alone where it is not. -/
def Obligations.SubRegisterFromItselfClears : Prop :=
  ∀ (r : Reg) (s : State), ∃ t, exec (.sub r .memory (regAddr r)) s = .next t ∧
    t.read (regAddr r) = 0 ∧
    t.read (flagAddr r) = (if s.params.subCarry = .borrow then 0o000 else 0o002)

/-- R29: the flag bytes change only on ADD or SUB to their register, or by an explicit store: ADD and SUB write a value of at
most 3 into their own register's byte, and an instruction that is not an ADD or SUB to r leaves the byte of r alone unless it
is a STORE, SET or taken Jump and Mark whose destination is that byte. -/
def Obligations.OnlyAddAndSubUpdateFlags : Prop :=
  ∀ (i : Instr) (s t : State) (q : Reg), exec i s = .next t →
    match i with
    | .add r _ _ => if r = q then (t.read (flagAddr q)).toNat ≤ 3 else t.read (flagAddr q) = s.read (flagAddr q)
    | .sub r _ _ => if r = q then (t.read (flagAddr q)).toNat ≤ 3 else t.read (flagAddr q) = s.read (flagAddr q)
    | .store _ m b2 => s.effectiveAddress m b2 ≠ flagAddr q → t.read (flagAddr q) = s.read (flagAddr q)
    | .set0 _ b2 | .set1 _ b2 => b2 ≠ flagAddr q → t.read (flagAddr q) = s.read (flagAddr q)
    | .jmd test c b2 => (s.jumpTaken test c = true → b2 ≠ flagAddr q) → t.read (flagAddr q) = s.read (flagAddr q)
    | .jmi test c b2 => (s.jumpTaken test c = true → s.read b2 ≠ flagAddr q) → t.read (flagAddr q) = s.read (flagAddr q)
    | _ => t.read (flagAddr q) = s.read (flagAddr q)

/-! ### AND, OR, LNEG -/

/-- R131, R132, R133: AND, OR and LNEG, every mode: A becomes the bitwise AND or inclusive OR of A and the operand, or the
operand subtracted from zero (for the operand -128 that is -128 again); P + 2; no flag byte and nothing else changes; and
their encodings. -/
def Obligations.LogicalInstructionsWriteA : Prop :=
  ∀ (m : Mode) (b2 : Byte) (s : State),
    let a := s.read 0o000
    let v := s.read (s.effectiveAddress m b2)
    encode (.and m b2) = [BitVec.ofNat 8 (0o320 + m.digit.toNat), b2] ∧
    encode (.or m b2) = [BitVec.ofNat 8 (0o300 + m.digit.toNat), b2] ∧
    encode (.lneg m b2) = [BitVec.ofNat 8 (0o330 + m.digit.toNat), b2] ∧
    (∃ t, exec (.and m b2) s = .next t ∧
      (∀ k < 8, (t.read 0o000).getLsbD k = (v.getLsbD k && a.getLsbD k)) ∧
      t.pc = s.pc + 2 ∧ UnchangedExcept s t [addrA, addrP] ∧ SameBesideMemory s t) ∧
    (∃ t, exec (.or m b2) s = .next t ∧
      (∀ k < 8, (t.read 0o000).getLsbD k = (v.getLsbD k || a.getLsbD k)) ∧
      t.pc = s.pc + 2 ∧ UnchangedExcept s t [addrA, addrP] ∧ SameBesideMemory s t) ∧
    (∃ t, exec (.lneg m b2) s = .next t ∧
      t.read 0o000 = ~~~v + 1 ∧ (v.signed = -128 → (t.read 0o000).signed = -128) ∧
      (v.signed ≠ -128 → (t.read 0o000).signed = -v.signed) ∧
      t.pc = s.pc + 2 ∧ UnchangedExcept s t [addrA, addrP] ∧ SameBesideMemory s t)

/-! ### Jumps -/

/-- R141: the jump conditions, their digits and what each reads, in the signed reading of the tested register's value; an
unconditional jump is always taken. -/
def Obligations.JumpConditionReadsRegister : Prop :=
  [Cond.nonZero, .zero, .negative, .positive, .positiveNonZero].map (fun c => c.digit.toNat) = [3, 4, 5, 6, 7] ∧
  [JumpTest.reg .a, .reg .b, .reg .x, .unconditional].map (fun test => test.digit.toNat) = [0, 1, 2, 3] ∧
  ∀ (r : Reg) (c : Cond) (s : State),
    let v := (s.read (regAddr r)).signed
    s.jumpTaken .unconditional c = true ∧
    (s.jumpTaken (.reg r) .nonZero = true ↔ v ≠ 0) ∧
    (s.jumpTaken (.reg r) .zero = true ↔ v = 0) ∧
    (s.jumpTaken (.reg r) .negative = true ↔ v < 0) ∧
    (s.jumpTaken (.reg r) .positive = true ↔ 0 ≤ v) ∧
    (s.jumpTaken (.reg r) .positiveNonZero = true ↔ 0 < v)

/-- R142, R143: JPD and JPI, every test and condition: P becomes the target (the second byte, or the byte it points at)
where the condition holds, else P + 2; nothing else changes; and their encodings. -/
def Obligations.JumpsGoToTheTarget : Prop :=
  ∀ (test : JumpTest) (c : Cond) (b2 : Byte) (s : State),
    encode (.jpd test c b2) = [BitVec.ofNat 8 (64 * test.digit.toNat + 8 * 4 + c.digit.toNat), b2] ∧
    encode (.jpi test c b2) = [BitVec.ofNat 8 (64 * test.digit.toNat + 8 * 5 + c.digit.toNat), b2] ∧
    (∃ t, exec (.jpd test c b2) s = .next t ∧
      t.pc = (if s.jumpTaken test c then b2 else s.pc + 2) ∧
      UnchangedExcept s t [addrP] ∧ SameBesideMemory s t) ∧
    (∃ t, exec (.jpi test c b2) s = .next t ∧
      t.pc = (if s.jumpTaken test c then s.read b2 else s.pc + 2) ∧
      UnchangedExcept s t [addrP] ∧ SameBesideMemory s t)

/-- Jump and Mark (R144, R145), every test and condition: where the condition holds, p + 2 is stored at the target and P
becomes the target plus one; else P + 2 and nothing is stored. Where the target is location 0o003 itself P is 0o004 (the
mark is overwritten; the spec's decision D3), and condition and target are formed before the mark is stored (D5). -/
def Obligations.JumpAndMarkStoresReturnAddress : Prop :=
  ∀ (test : JumpTest) (c : Cond) (b2 : Byte) (s : State),
    encode (.jmd test c b2) = [BitVec.ofNat 8 (64 * test.digit.toNat + 8 * 6 + c.digit.toNat), b2] ∧
    encode (.jmi test c b2) = [BitVec.ofNat 8 (64 * test.digit.toNat + 8 * 7 + c.digit.toNat), b2] ∧
    ∀ i target, (i = .jmd test c b2 ∧ target = b2) ∨ (i = .jmi test c b2 ∧ target = s.read b2) →
      ∃ t, exec i s = .next t ∧ SameBesideMemory s t ∧
        if s.jumpTaken test c then
          t.pc = target + 1 ∧ (target ≠ addrP → t.read target = s.pc + 2) ∧ UnchangedExcept s t [target, addrP]
        else t.pc = s.pc + 2 ∧ UnchangedExcept s t [addrP]

/-- The subroutine call (43_jumps.md section 4): an unconditional JMD to S, from the instruction at p, continues at S + 1;
and in any later state in which byte S still holds what the call left there, JPI UNC (S) continues at p + 2. S is any
address but that of P. -/
def Obligations.SubroutineReturnsAfterCall : Prop :=
  ∀ (S : Byte) (c c' : Cond) (s : State), S ≠ addrP →
    ∃ t, exec (.jmd .unconditional c S) s = .next t ∧ t.pc = S + 1 ∧
      ∀ later : State, later.read S = t.read S →
        ∃ back, exec (.jpi .unconditional c' S) later = .next back ∧ back.pc = s.pc + 2

/-! ### Skip and set -/

/-- R151, R152: SKP 0 and SKP 1, every bit and address: P + 4 where the selected bit has the value named, else P + 2;
nothing else changes; and their encodings. -/
def Obligations.SkipsTestOneBit : Prop :=
  ∀ (k : Fin 8) (b2 : Byte) (s : State),
    encode (.skp0 k b2) = [BitVec.ofNat 8 (0o202 + 8 * k.val), b2] ∧
    encode (.skp1 k b2) = [BitVec.ofNat 8 (0o302 + 8 * k.val), b2] ∧
    (∃ t, exec (.skp0 k b2) s = .next t ∧
      t.pc = (if (s.read b2).getLsbD k.val = false then s.pc + 4 else s.pc + 2) ∧
      UnchangedExcept s t [addrP] ∧ SameBesideMemory s t) ∧
    (∃ t, exec (.skp1 k b2) s = .next t ∧
      t.pc = (if (s.read b2).getLsbD k.val = true then s.pc + 4 else s.pc + 2) ∧
      UnchangedExcept s t [addrP] ∧ SameBesideMemory s t)

/-- SET 0 and SET 1 (R153, R154), every bit and address: the selected bit of the byte takes the value named, its other
bits stay; P + 2; nothing else changes. Where the byte is location 0o003 itself P becomes its changed value plus 2 (the
spec's decision D3). And their encodings. -/
def Obligations.SetsChangeOneBit : Prop :=
  ∀ (k : Fin 8) (b2 : Byte) (s : State),
    encode (.set0 k b2) = [BitVec.ofNat 8 (0o002 + 8 * k.val), b2] ∧
    encode (.set1 k b2) = [BitVec.ofNat 8 (0o102 + 8 * k.val), b2] ∧
    ∀ (i : Instr) (bit : Bool), (i = .set0 k b2 ∧ bit = false) ∨ (i = .set1 k b2 ∧ bit = true) →
      ∃ (t : State) (w : Byte), exec i s = .next t ∧
        (∀ j < 8, w.getLsbD j = if j = k.val then bit else (s.read b2).getLsbD j) ∧
        (b2 ≠ addrP → t.read b2 = w ∧ t.pc = s.pc + 2) ∧ (b2 = addrP → t.pc = w + 2) ∧
        UnchangedExcept s t [b2, addrP] ∧ SameBesideMemory s t

/-! ### Shifts and rotates -/

/-- R161, R163, R164: SFTL, ROTL and ROTR, both registers, every place count: the register takes the shifted or rotated
value; P + 1; no flag byte and nothing else changes; and their encodings. -/
def Obligations.LeftShiftAndRotatesWriteRegister : Prop :=
  ∀ (g : ShiftReg) (n : Places) (s : State),
    let v := s.read (shiftRegAddr g)
    let places := placeCount n
    let field := 8 * (4 * g.bit.toNat + places % 4)
    encode (.sftl g n) = [BitVec.ofNat 8 (0o201 + field)] ∧
    encode (.rotl g n) = [BitVec.ofNat 8 (0o301 + field)] ∧
    encode (.rotr g n) = [BitVec.ofNat 8 (0o101 + field)] ∧
    (∃ t, exec (.sftl g n) s = .next t ∧ (t.read (shiftRegAddr g)).unsigned = v.unsigned * 2 ^ places % 256 ∧
      t.pc = s.pc + 1 ∧ UnchangedExcept s t [shiftRegAddr g, addrP] ∧ SameBesideMemory s t) ∧
    (∃ t, exec (.rotl g n) s = .next t ∧ t.read (shiftRegAddr g) = v <<< places ||| v >>> (8 - places) ∧
      t.pc = s.pc + 1 ∧ UnchangedExcept s t [shiftRegAddr g, addrP] ∧ SameBesideMemory s t) ∧
    (∃ t, exec (.rotr g n) s = .next t ∧ t.read (shiftRegAddr g) = v >>> places ||| v <<< (8 - places) ∧
      t.pc = s.pc + 1 ∧ UnchangedExcept s t [shiftRegAddr g, addrP] ∧ SameBesideMemory s t)

/-- R162: SFTR, both registers, every place count: the sign bit is copied into the vacated places, which is the signed
number divided by 2 to the places and rounded down; P + 1; no flag byte and nothing else changes; and its encoding. -/
def Obligations.RightShiftIsFloorDivision : Prop :=
  ∀ (g : ShiftReg) (n : Places) (s : State),
    let v := s.read (shiftRegAddr g)
    let places := placeCount n
    encode (.sftr g n) = [BitVec.ofNat 8 (0o001 + 8 * (4 * g.bit.toNat + places % 4))] ∧
    ∃ t, exec (.sftr g n) s = .next t ∧
      t.read (shiftRegAddr g) =
        (if v.getLsbD 7 then v >>> places ||| (0o377 : Byte) <<< (8 - places) else v >>> places) ∧
      (t.read (shiftRegAddr g)).signed = v.signed / 2 ^ places ∧
      t.pc = s.pc + 1 ∧ UnchangedExcept s t [shiftRegAddr g, addrP] ∧ SameBesideMemory s t

/-- R160: an n place shift or rotate is a one place one performed n times, and the one place operations move the bits as
the source's table says. -/
def Obligations.ShiftsRepeatOnePlace : Prop :=
  ∀ (v : Byte) (n : Places),
    let c := fun k => BitVec.ofBool (v.getLsbD k)
    shiftLeft v n = (fun w => shiftLeft w .one)^[placeCount n] v ∧
    shiftRight v n = (fun w => shiftRight w .one)^[placeCount n] v ∧
    rotateLeft v n = (fun w => rotateLeft w .one)^[placeCount n] v ∧
    rotateRight v n = (fun w => rotateRight w .one)^[placeCount n] v ∧
    shiftLeft v .one = c 6 ++ c 5 ++ c 4 ++ c 3 ++ c 2 ++ c 1 ++ c 0 ++ (0 : BitVec 1) ∧
    rotateLeft v .one = c 6 ++ c 5 ++ c 4 ++ c 3 ++ c 2 ++ c 1 ++ c 0 ++ c 7 ∧
    shiftRight v .one = c 7 ++ c 7 ++ c 6 ++ c 5 ++ c 4 ++ c 3 ++ c 2 ++ c 1 ∧
    rotateRight v .one = c 0 ++ c 7 ++ c 6 ++ c 5 ++ c 4 ++ c 3 ++ c 2 ++ c 1

/-- R164: ROTR by n undoes ROTL by n on the same register, and ROTR by 4 equals ROTL by 4. -/
def Obligations.RotateRightUndoesRotateLeft : Prop :=
  ∀ (g : ShiftReg) (n : Places) (s : State), ∃ t u, exec (.rotl g n) s = .next t ∧ exec (.rotr g n) t = .next u ∧
    u.pc = s.pc + 2 ∧ UnchangedExcept s u [addrP] ∧ SameBesideMemory s u ∧
    exec (.rotr g .four) s = exec (.rotl g .four) s

/-! ### NOOP, HALT, NOOP31 -/

/-- R171: NOOP, whatever its don't-care bits: P + 1 and nothing else; and its encoding. -/
def Obligations.NoopAdvancesByOne : Prop :=
  ∀ (x : BitVec 4) (s : State),
    encode (.noop x) = [BitVec.ofNat 8 (0o200 + 8 * x.toNat)] ∧
    ∃ t, exec (.noop x) s = .next t ∧ t.pc = s.pc + 1 ∧ UnchangedExcept s t [addrP] ∧ SameBesideMemory s t

/-- R172: HALT, whatever its don't-care bits: P + 1, the Halt state, no Control Lamp lit (so the lamps show location
0o200), and nothing else; with power on, Start resumes at P + 1; and its encoding. Control circuits that are initialised stay so;
those that are not are in PowerOnProcedureInitialisesTheCircuits. -/
def Obligations.HaltEndsTheRunState : Prop :=
  ∀ (x : BitVec 4) (s : State),
    encode (.halt x) = [BitVec.ofNat 8 (8 * x.toNat)] ∧
    ∃ t, exec (.halt x) s = .next t ∧ t.pc = s.pc + 1 ∧ t.run = .halt ∧ t.sel = .none ∧ t.dataLamps = s.read 0o200 ∧
      UnchangedExcept s t [addrP] ∧ SameBesideMemory { s with run := .halt, sel := .none, circuits := t.circuits } t ∧
      (s.circuits = .initialised → t.circuits = .initialised) ∧
      ∀ rest, s.power = .on → s.schedule = .operator .start :: rest →
        ∃ u, step t = .next u ∧ u.run = .run ∧ u.pc = s.pc + 1

/-- The codes 0o313 to 0o317 (46_noop_halt.md, the spec's decision D6, log 17): P advances by `P_NOOP31_LEN`, 1 or 2, and
nothing else changes; and their encoding. -/
def Obligations.Noop31AdvancesByItsLength : Prop :=
  ∀ (m : Mode) (second : Option Byte) (s : State),
    encode (.noop31 m second) = BitVec.ofNat 8 (0o310 + m.digit.toNat) :: second.toList ∧
    ∃ t, exec (.noop31 m second) s = .next t ∧
      t.pc = s.pc + (match s.params.noop31Length with | .one => 1 | .two => 2) ∧
      UnchangedExcept s t [addrP] ∧ SameBesideMemory s t

/-! ### The console -/

/-- R210: what the Data Lamps show. That the Memory lamp shows the byte `mem_shown`, latched by Memory Read, is the spec's
decision D9 (log 20). -/
def Obligations.DataLampsShowTheSelection : Prop :=
  ∀ s : State,
    (s.sel = .input → s.dataLamps = s.read 0o377) ∧ (s.sel = .address → s.dataLamps = s.ar) ∧
    (s.sel = .memory → s.dataLamps = s.memShown) ∧ (s.sel = .run ∨ s.sel = .none → s.dataLamps = s.read 0o200)

/-- R212: Data Pushbutton i sets bit i of location 0o377 and resets none, in Run and in Halt; in Halt the Input lamp
lights (the spec's decision D9, log 20), in Run the lamps keep their selection; nothing else changes. -/
def Obligations.DataButtonSetsItsBit : Prop :=
  ∀ (i : Fin 8) (s : State) (rest : List Turn), s.power = .on → s.schedule = .operator (.dataButton i) :: rest →
    ∃ t, step s = .next t ∧
      (∀ k < 8, (t.read 0o377).getLsbD k = (decide (k = i.val) || (s.read 0o377).getLsbD k)) ∧
      UnchangedExcept s t [addrIn] ∧
      SameBesideMemory { s with schedule := rest, sel := if s.run = .halt then .input else s.sel } t

/-- R213: Clear erases location 0o377, in Run and in Halt; in Halt the Input lamp lights, in Run the lamps keep their
selection; nothing else changes. -/
def Obligations.ClearErasesInput : Prop :=
  ∀ (s : State) (rest : List Turn), s.power = .on → s.schedule = .operator .clear :: rest →
    ∃ t, step s = .next t ∧ t.read 0o377 = 0 ∧ UnchangedExcept s t [addrIn] ∧
      SameBesideMemory { s with schedule := rest, sel := if s.run = .halt then .input else s.sel } t

/-- R214, R215: in the Halt state Address Set copies location 0o377 to the Address Register (which lamp is lit after it is
not stated and is free) and Address Display lights the Address lamp and changes nothing else, so the lamps show the
Address Register. -/
def Obligations.AddressSetAndDisplay : Prop :=
  ∀ (s : State) (rest : List Turn), s.Halted →
    (s.schedule = .operator .addressSet :: rest → ∃ t, step s = .next t ∧ t.ar = s.read 0o377 ∧ t.mem = s.mem ∧
      t.run = s.run ∧ t.memShown = s.memShown ∧ t.circuits = s.circuits ∧ t.power = s.power ∧ t.params = s.params ∧
      t.schedule = rest) ∧
    (s.schedule = .operator .addressDisplay :: rest →
      step s = .next { s with schedule := rest, sel := .address } ∧
      State.dataLamps { s with schedule := rest, sel := .address } = s.ar)

/-- R216: Memory Read in the Halt state: the byte at the Address Register is latched (the spec's decision D9, log 20) and
shown, the Memory lamp lights, the Address Register advances by one modulo 256; memory does not change. -/
def Obligations.MemoryReadShowsAndAdvances : Prop :=
  ∀ (s : State) (rest : List Turn), s.Halted → s.schedule = .operator .memoryRead :: rest →
    ∃ t, step s = .next t ∧
      t = { s with schedule := rest, memShown := s.read s.ar, sel := .memory, ar := s.ar + 1 } ∧
      t.dataLamps = s.read s.ar

/-- R217: Memory Store in the Halt state: the byte at the Address Register takes location 0o377, the Address Register
advances by one modulo 256, no other byte changes. -/
def Obligations.MemoryStoreWritesAndAdvances : Prop :=
  ∀ (s : State) (rest : List Turn), s.Halted → s.schedule = .operator .memoryStore :: rest →
    ∃ t, step s = .next t ∧ t.read s.ar = s.read 0o377 ∧ t.ar = s.ar + 1 ∧ UnchangedExcept s t [s.ar] ∧
      t.run = s.run ∧ t.memShown = s.memShown ∧ t.circuits = s.circuits ∧ t.power = s.power ∧ t.params = s.params ∧
      t.schedule = rest

/-- R220, R222: Start in the Halt state: the Run state, the Run lamp, memory as it was; the Address Register takes the
free value `AR_after_start` of this draw, and the next draw is another one (the model's, log 7); control circuits that are
initialised stay so, others are started (the model's, log 4); with no event to come the next step runs the instruction
whose address is in location 0o003. -/
def Obligations.StartEntersTheRunState : Prop :=
  ∀ (s : State) (rest : List Turn), s.Halted → s.schedule = .operator .start :: rest →
    ∃ t, step s = .next t ∧ t.run = .run ∧ t.sel = .run ∧ t.mem = s.mem ∧ t.ar = Config.arAfterStart s.draws ∧
      t.draws = s.draws + 1 ∧ (s.circuits = .initialised → t.circuits = .initialised) ∧
      (s.circuits ≠ .initialised → t.circuits = .started) ∧ t.memShown = s.memShown ∧ t.power = s.power ∧ t.params = s.params ∧ t.schedule = rest ∧
      (rest = [] → step t = exec (decodePair s.params.noop31Length (s.read (s.read 0o003)) (s.read (s.read 0o003 + 1))) t)

/-- Stop in the Run state, between two instructions (60_exceptions.md section 4; the boundary is the spec's decision D7):
the Halt state, no lamp lit, a power-on procedure that Start has begun completed (log 4), memory as it was. -/
def Obligations.StopEndsTheRunState : Prop :=
  ∀ (s : State) (rest : List Turn), s.power = .on → s.run = .run → s.schedule = .operator .stop :: rest →
    step s = .next { s with schedule := rest, run := .halt, sel := .none, circuits := s.circuits.afterHalt }

/-- R223: the single step, as one event (log 21), executes one and only one instruction, the one whose address is in
location 0o003, and leaves the machine halted with no lamp lit. The Address Register is a free draw (log 7); as Start and
Stop were both pressed, the control circuits are initialised after it (log 4). -/
def Obligations.SingleStepExecutesOneInstruction : Prop :=
  ∀ (s : State) (rest : List Turn), s.Halted → s.schedule = .operator .singleStep :: rest →
    ∃ t, exec (decodePair s.params.noop31Length (s.read s.pc) (s.read (s.pc + 1)))
        { s with schedule := rest, run := .run, sel := .run, ar := Config.arAfterStart s.draws,
                 circuits := s.circuits.afterStart, draws := s.draws + 1 } = .next t ∧
      step s = .next { t with run := .halt, sel := .none, circuits := .initialised }

/-- R224: the lamp tests, in the Halt state: Data Pushbutton i lights Data Lamp i, Clear the Input lamp, Address Display the
Address lamp, Memory Read the Memory lamp, Start the Run lamp. -/
def Obligations.LampTestsLightTheirLamps : Prop :=
  ∀ (s : State) (rest : List Turn), s.Halted →
    (∀ i : Fin 8, s.schedule = .operator (.dataButton i) :: rest →
      ∃ t, step s = .next t ∧ t.dataLamps.getLsbD i.val = true) ∧
    (∀ e lamp, (e = .clear ∧ lamp = .input) ∨ (e = .addressDisplay ∧ lamp = .address) ∨
        (e = .memoryRead ∧ lamp = .memory) ∨ (e = .start ∧ lamp = .run) →
      s.schedule = .operator e :: rest → ∃ t, step s = .next t ∧ t.sel = lamp)

/-- R219: the presses the source does not describe have no move: Address Set, Address Display, Memory Read, Memory Store and
a single step in the Run state, Start in the Run state but for the one of the power-on procedure (while the control
circuits are undefined, log 4), Stop in the Halt state. -/
def Obligations.UndescribedPressesHaveNoMove : Prop :=
  ∀ (s : State) (rest : List Turn) (e : ConsoleEvent), s.power = .on → s.schedule = .operator e :: rest →
    (s.run = .run → e = .addressSet ∨ e = .addressDisplay ∨ e = .memoryRead ∨ e = .memoryStore ∨ e = .singleStep →
      step s = .refused .undescribedInRun) ∧
    (s.run = .run → s.circuits ≠ .undefined → e = .start → step s = .refused .undescribedInRun) ∧
    (s.run = .halt → e = .stop → step s = .refused .stopInHalt)

/-- Power (60_exceptions.md section 2, 70_reset_and_hazards.md section 1): turning power off and on again leaves nothing of
what was there: every byte of memory, the run state, the Address Register and the lamps hold the free values of the
draw, and the control circuits are undefined. It holds for every value of the draws. -/
def Obligations.PowerCycleLosesAllState : Prop :=
  ∀ (s : State) (rest : List Turn), s.power = .on →
    s.schedule = .operator .powerOff :: .operator .powerOn :: rest →
    ∃ t u, step s = .next t ∧ t.power = .off ∧ step t = .next u ∧ u.power = .on ∧
      (∀ a : Byte, u.read a = Config.memPowerOn (s.draws + 1) a) ∧ u.run = Config.runPowerOn (s.draws + 1) ∧
      u.ar = Config.arPowerOn (s.draws + 1) ∧ u.sel = Config.selPowerOn (s.draws + 1) ∧
      u.memShown = Config.shownPowerOn (s.draws + 1) ∧ u.circuits = .undefined ∧ u.schedule = rest

/-- The power-on procedure (70_reset_and_hazards.md section 1; the treatment of Start in the Run state is the model's, log
4): with the control circuits not yet initialised, in the Halt state or, where Start has not been pressed, in the Run state
too, Start leads to the Run state with the circuits still not initialised, and Stop after it to the Halt state with the
circuits initialised; memory is not changed by the two presses. -/
def Obligations.PowerOnProcedureReachesHalt : Prop :=
  ∀ (s : State) (rest : List Turn), s.power = .on → s.circuits ≠ .initialised →
    (s.run = .run → s.circuits = .undefined) → s.schedule = .operator .start :: .operator .stop :: rest →
    ∃ t u, step s = .next t ∧ t.run = .run ∧ t.circuits = .started ∧ t.mem = s.mem ∧
      step t = .next u ∧ u.run = .halt ∧ u.circuits = .initialised ∧
      u.mem = s.mem ∧ u.sel = .none ∧ u.schedule = rest

/-- The source's loading sequence (70_reset_and_hazards.md section 2): in the Halt state, entering an address, Address Set,
and then Clear, Enter and Memory Store for each byte leaves the bytes at rising addresses from there, the Address Register
behind the last of them, and every byte of memory but those and location 0o377 as it was. The bytes lie below location
0o377, where the bytes are entered. -/
def Obligations.LoadingSequenceStoresTheBytes : Prop :=
  ∀ (s : State) (first : Byte) (bytes : List Byte), s.Halted → first.toNat + bytes.length ≤ 255 →
    s.schedule = loadProgram first bytes →
    ∃ t, stepsTo (loadProgram first bytes).length s t ∧ t.Halted ∧ t.schedule = [] ∧
      t.ar = first + BitVec.ofNat 8 bytes.length ∧
      (∀ n v, bytes[n]? = some v → t.read (first + BitVec.ofNat 8 n) = v) ∧
      (∀ a : Byte, a ≠ addrIn → a.toNat < first.toNat ∨ first.toNat + bytes.length ≤ a.toNat → t.read a = s.read a)

/-- The control circuits follow the power-on procedure (10_state.md section 6, 70_reset_and_hazards.md section 1; how the
field does so is the model's, log 4): a turn makes them initialised only where it leaves the Run state after Start had been
pressed, by HALT or Stop, or is the single step, which presses both; only the power switch makes them undefined again; Start
is answered in the Run state only while they are undefined; and HALT completes a procedure that Start has begun, but leaves undefined circuits undefined. -/
def Obligations.PowerOnProcedureInitialisesTheCircuits : Prop :=
  (∀ s t : State, step s = .next t →
    (s.circuits ≠ .initialised → t.circuits = .initialised → s.power = .on ∧ t.run = .halt ∧
      ((s.run = .run ∧ s.circuits = .started) ∨ ∃ rest, s.schedule = .operator .singleStep :: rest)) ∧
    (s.circuits ≠ .undefined → t.circuits = .undefined → s.power ≠ t.power) ∧
    (s.circuits = .undefined → t.circuits = .started → ∃ rest, s.schedule = .operator .start :: rest) ∧
    (∀ rest, s.schedule = .operator .start :: rest → s.run = .run → s.circuits = .undefined)) ∧
  (∀ (x : BitVec 4) (s : State), ∃ t, exec (.halt x) s = .next t ∧
    (s.circuits = .started → t.circuits = .initialised) ∧ (s.circuits = .undefined → t.circuits = .undefined))
end

