-- ==== Sys2Proof/Laws/Memory.lean ====
section
/-! SUPPORT. The laws of memory: read after write, and every memory operation keeps the canonical form. -/

namespace Sys2Proof.Machine

theorem Memory.lookup_insert (a b : Nat) (v : Byte) (mem : Memory) :
    Memory.lookup b (Memory.insert a v mem) = if b = a then v else Memory.lookup b mem := by
  induction mem with
  | nil => simp [Memory.insert, Memory.lookup, eq_comm]
  | cons cell rest ih =>
    obtain ⟨c, w⟩ := cell
    simp only [Memory.insert]
    split
    · simp [Memory.lookup, eq_comm]
    · split
      · subst_vars; by_cases h : b = c <;> simp [Memory.lookup, h, eq_comm]
      · simp only [Memory.lookup, ih]; split <;> split <;> simp_all

theorem Memory.lookup_erase (a b : Nat) (mem : Memory) :
    Memory.lookup b (Memory.erase a mem) = if b = a then Memory.unlisted else Memory.lookup b mem := by
  induction mem with
  | nil => simp [Memory.erase, Memory.lookup]
  | cons cell rest ih =>
    obtain ⟨c, w⟩ := cell
    simp only [Memory.erase]
    split
    · subst_vars; rw [ih]; by_cases h : b = c <;> simp [Memory.lookup, h, eq_comm]
    · simp only [Memory.lookup, ih]; split <;> split <;> simp_all

/-- A read after a write gives the value written at its address and leaves every other address alone, whatever form the
list of cells has. -/
theorem Memory.read_write (mem : Memory) (a b v : Byte) :
    (mem.write a v).read b = if b = a then v else mem.read b := by
  have hb : (b.toNat = a.toNat) = (b = a) := propext BitVec.toNat_inj
  unfold Memory.read Memory.write
  split
  · subst_vars; simp only [Memory.lookup_erase, hb]
  · simp only [Memory.lookup_insert, hb]

theorem Memory.wfFrom_mono {low low' : Nat} (h : low' ≤ low) (mem : Memory) (hw : mem.wfFrom low = true) :
    mem.wfFrom low' = true := by
  cases mem with
  | nil => rfl
  | cons cell rest =>
    simp only [Memory.wfFrom, Bool.and_eq_true, decide_eq_true_eq] at hw ⊢
    exact ⟨⟨⟨by omega, hw.1.1.2⟩, hw.1.2⟩, hw.2⟩

theorem Memory.wfFrom_insert (mem : Memory) (low a : Nat) (v : Byte) (hl : low ≤ a) (ha : a < 256)
    (hv : v ≠ Memory.unlisted) (hw : mem.wfFrom low = true) : (Memory.insert a v mem).wfFrom low = true := by
  induction mem generalizing low with
  | nil => simp [Memory.insert, Memory.wfFrom, hl, ha, hv]
  | cons cell rest ih =>
    obtain ⟨c, w⟩ := cell
    simp only [Memory.wfFrom, Bool.and_eq_true, decide_eq_true_eq] at hw
    obtain ⟨⟨⟨hc, hc256⟩, hne⟩, hrest⟩ := hw
    simp only [Memory.insert]
    split
    · simp [Memory.wfFrom, hl, ha, hv, hc256, hne, hrest]; omega
    · split
      · subst_vars; simp [Memory.wfFrom, hl, ha, hv, hrest]
      · simp [Memory.wfFrom, hc, hc256, hne, ih (c + 1) (by omega) hrest]

theorem Memory.wfFrom_erase (mem : Memory) (low a : Nat) (hw : mem.wfFrom low = true) :
    (Memory.erase a mem).wfFrom low = true := by
  induction mem generalizing low with
  | nil => rfl
  | cons cell rest ih =>
    obtain ⟨c, w⟩ := cell
    simp only [Memory.wfFrom, Bool.and_eq_true, decide_eq_true_eq] at hw
    obtain ⟨⟨⟨hc, hc256⟩, hne⟩, hrest⟩ := hw
    simp only [Memory.erase]
    split
    · exact Memory.wfFrom_mono (by omega) _ (ih (c + 1) hrest)
    · simp [Memory.wfFrom, hc, hc256, hne, ih (c + 1) hrest]

/-- A write keeps the canonical form. -/
theorem Memory.write_wf (mem : Memory) (a v : Byte) (hw : mem.wf = true) : (mem.write a v).wf = true := by
  unfold Memory.write Memory.wf at *
  split
  · exact Memory.wfFrom_erase _ _ _ hw
  · exact Memory.wfFrom_insert _ _ _ _ (Nat.zero_le _) a.isLt ‹_› hw

/-- A filled memory is in canonical form. -/
theorem Memory.fill_wf (f : Byte → Byte) (n : Nat) : (Memory.fill f n).wf = true := by
  induction n with
  | zero => rfl
  | succ n ih => exact Memory.write_wf _ _ _ ih

theorem Memory.fill_read_below (f : Byte → Byte) (n : Nat) (hn : n ≤ 256) (a : Byte) (ha : a.toNat < n) :
    (Memory.fill f n).read a = f a := by
  induction n with
  | zero => omega
  | succ n ih =>
    rw [Memory.fill, Memory.read_write]
    split
    · subst_vars; rfl
    · rename_i hne
      have : a.toNat ≠ n := fun h => hne (by rw [← h]; simp)
      exact ih (by omega) (by omega)

/-- A memory filled to the top holds what it was filled with, at every address. -/
theorem Memory.fill_read (f : Byte → Byte) (a : Byte) : (Memory.fill f 256).read a = f a :=
  Memory.fill_read_below f 256 (Nat.le_refl _) a a.isLt

end Sys2Proof.Machine
end

