-- ==== Sys2Proof/Laws/State.lean ====
section
/-! SUPPORT. One lemma per field of State per update of it; all true by rfl, all in the simp set. -/

namespace Sys2Proof.Machine

variable (s : State)

@[simp] theorem State.write_mem (a v : Byte) : (s.write a v).mem = s.mem.write a v := rfl
@[simp] theorem State.write_run (a v : Byte) : (s.write a v).run = s.run := rfl
@[simp] theorem State.write_ar (a v : Byte) : (s.write a v).ar = s.ar := rfl
@[simp] theorem State.write_sel (a v : Byte) : (s.write a v).sel = s.sel := rfl
@[simp] theorem State.write_memShown (a v : Byte) : (s.write a v).memShown = s.memShown := rfl
@[simp] theorem State.write_circuits (a v : Byte) : (s.write a v).circuits = s.circuits := rfl
@[simp] theorem State.write_power (a v : Byte) : (s.write a v).power = s.power := rfl
@[simp] theorem State.write_params (a v : Byte) : (s.write a v).params = s.params := rfl
@[simp] theorem State.write_draws (a v : Byte) : (s.write a v).draws = s.draws := rfl
@[simp] theorem State.write_schedule (a v : Byte) : (s.write a v).schedule = s.schedule := rfl

@[simp] theorem State.setPc_mem (v : Byte) : (s.setPc v).mem = s.mem.write addrP v := rfl
@[simp] theorem State.setPc_run (v : Byte) : (s.setPc v).run = s.run := rfl
@[simp] theorem State.setPc_ar (v : Byte) : (s.setPc v).ar = s.ar := rfl
@[simp] theorem State.setPc_sel (v : Byte) : (s.setPc v).sel = s.sel := rfl
@[simp] theorem State.setPc_memShown (v : Byte) : (s.setPc v).memShown = s.memShown := rfl
@[simp] theorem State.setPc_circuits (v : Byte) : (s.setPc v).circuits = s.circuits := rfl
@[simp] theorem State.setPc_power (v : Byte) : (s.setPc v).power = s.power := rfl
@[simp] theorem State.setPc_params (v : Byte) : (s.setPc v).params = s.params := rfl
@[simp] theorem State.setPc_draws (v : Byte) : (s.setPc v).draws = s.draws := rfl
@[simp] theorem State.setPc_schedule (v : Byte) : (s.setPc v).schedule = s.schedule := rfl

@[simp] theorem State.advance_mem (n : Byte) : (s.advance n).mem = s.mem.write addrP (s.pc + n) := rfl
@[simp] theorem State.advance_run (n : Byte) : (s.advance n).run = s.run := rfl
@[simp] theorem State.advance_ar (n : Byte) : (s.advance n).ar = s.ar := rfl
@[simp] theorem State.advance_sel (n : Byte) : (s.advance n).sel = s.sel := rfl
@[simp] theorem State.advance_memShown (n : Byte) : (s.advance n).memShown = s.memShown := rfl
@[simp] theorem State.advance_circuits (n : Byte) : (s.advance n).circuits = s.circuits := rfl
@[simp] theorem State.advance_power (n : Byte) : (s.advance n).power = s.power := rfl
@[simp] theorem State.advance_params (n : Byte) : (s.advance n).params = s.params := rfl
@[simp] theorem State.advance_draws (n : Byte) : (s.advance n).draws = s.draws := rfl
@[simp] theorem State.advance_schedule (n : Byte) : (s.advance n).schedule = s.schedule := rfl

@[simp] theorem State.enterHalt_mem : (s.enterHalt).mem = s.mem := rfl
@[simp] theorem State.enterHalt_run : (s.enterHalt).run = RunState.halt := rfl
@[simp] theorem State.enterHalt_ar : (s.enterHalt).ar = s.ar := rfl
@[simp] theorem State.enterHalt_sel : (s.enterHalt).sel = Sel.none := rfl
@[simp] theorem State.enterHalt_memShown : (s.enterHalt).memShown = s.memShown := rfl
@[simp] theorem State.enterHalt_circuits : (s.enterHalt).circuits = s.circuits.afterHalt := rfl
@[simp] theorem State.enterHalt_power : (s.enterHalt).power = s.power := rfl
@[simp] theorem State.enterHalt_params : (s.enterHalt).params = s.params := rfl
@[simp] theorem State.enterHalt_draws : (s.enterHalt).draws = s.draws := rfl
@[simp] theorem State.enterHalt_schedule : (s.enterHalt).schedule = s.schedule := rfl

@[simp] theorem State.enterRun_mem : (s.enterRun).mem = s.mem := rfl
@[simp] theorem State.enterRun_run : (s.enterRun).run = RunState.run := rfl
@[simp] theorem State.enterRun_ar : (s.enterRun).ar = Config.arAfterStart s.draws := rfl
@[simp] theorem State.enterRun_sel : (s.enterRun).sel = Sel.run := rfl
@[simp] theorem State.enterRun_memShown : (s.enterRun).memShown = s.memShown := rfl
@[simp] theorem State.enterRun_circuits : (s.enterRun).circuits = s.circuits.afterStart := rfl
@[simp] theorem State.enterRun_power : (s.enterRun).power = s.power := rfl
@[simp] theorem State.enterRun_params : (s.enterRun).params = s.params := rfl
@[simp] theorem State.enterRun_draws : (s.enterRun).draws = s.draws + 1 := rfl
@[simp] theorem State.enterRun_schedule : (s.enterRun).schedule = s.schedule := rfl

@[simp] theorem State.light_mem (l : Sel) : (s.light l).mem = s.mem := rfl
@[simp] theorem State.light_run (l : Sel) : (s.light l).run = s.run := rfl
@[simp] theorem State.light_ar (l : Sel) : (s.light l).ar = s.ar := rfl
@[simp] theorem State.light_sel (l : Sel) : (s.light l).sel = l := rfl
@[simp] theorem State.light_memShown (l : Sel) : (s.light l).memShown = s.memShown := rfl
@[simp] theorem State.light_circuits (l : Sel) : (s.light l).circuits = s.circuits := rfl
@[simp] theorem State.light_power (l : Sel) : (s.light l).power = s.power := rfl
@[simp] theorem State.light_params (l : Sel) : (s.light l).params = s.params := rfl
@[simp] theorem State.light_draws (l : Sel) : (s.light l).draws = s.draws := rfl
@[simp] theorem State.light_schedule (l : Sel) : (s.light l).schedule = s.schedule := rfl

@[simp] theorem State.lightFree_mem : (s.lightFree).mem = s.mem := rfl
@[simp] theorem State.lightFree_run : (s.lightFree).run = s.run := rfl
@[simp] theorem State.lightFree_ar : (s.lightFree).ar = s.ar := rfl
@[simp] theorem State.lightFree_sel : (s.lightFree).sel = Config.selAfterPress s.draws := rfl
@[simp] theorem State.lightFree_memShown : (s.lightFree).memShown = s.memShown := rfl
@[simp] theorem State.lightFree_circuits : (s.lightFree).circuits = s.circuits := rfl
@[simp] theorem State.lightFree_power : (s.lightFree).power = s.power := rfl
@[simp] theorem State.lightFree_params : (s.lightFree).params = s.params := rfl
@[simp] theorem State.lightFree_draws : (s.lightFree).draws = s.draws + 1 := rfl
@[simp] theorem State.lightFree_schedule : (s.lightFree).schedule = s.schedule := rfl

@[simp] theorem State.setAr_mem (v : Byte) : (s.setAr v).mem = s.mem := rfl
@[simp] theorem State.setAr_run (v : Byte) : (s.setAr v).run = s.run := rfl
@[simp] theorem State.setAr_ar (v : Byte) : (s.setAr v).ar = v := rfl
@[simp] theorem State.setAr_sel (v : Byte) : (s.setAr v).sel = s.sel := rfl
@[simp] theorem State.setAr_memShown (v : Byte) : (s.setAr v).memShown = s.memShown := rfl
@[simp] theorem State.setAr_circuits (v : Byte) : (s.setAr v).circuits = s.circuits := rfl
@[simp] theorem State.setAr_power (v : Byte) : (s.setAr v).power = s.power := rfl
@[simp] theorem State.setAr_params (v : Byte) : (s.setAr v).params = s.params := rfl
@[simp] theorem State.setAr_draws (v : Byte) : (s.setAr v).draws = s.draws := rfl
@[simp] theorem State.setAr_schedule (v : Byte) : (s.setAr v).schedule = s.schedule := rfl

@[simp] theorem State.latchShown_mem (v : Byte) : (s.latchShown v).mem = s.mem := rfl
@[simp] theorem State.latchShown_run (v : Byte) : (s.latchShown v).run = s.run := rfl
@[simp] theorem State.latchShown_ar (v : Byte) : (s.latchShown v).ar = s.ar := rfl
@[simp] theorem State.latchShown_sel (v : Byte) : (s.latchShown v).sel = s.sel := rfl
@[simp] theorem State.latchShown_memShown (v : Byte) : (s.latchShown v).memShown = v := rfl
@[simp] theorem State.latchShown_circuits (v : Byte) : (s.latchShown v).circuits = s.circuits := rfl
@[simp] theorem State.latchShown_power (v : Byte) : (s.latchShown v).power = s.power := rfl
@[simp] theorem State.latchShown_params (v : Byte) : (s.latchShown v).params = s.params := rfl
@[simp] theorem State.latchShown_draws (v : Byte) : (s.latchShown v).draws = s.draws := rfl
@[simp] theorem State.latchShown_schedule (v : Byte) : (s.latchShown v).schedule = s.schedule := rfl

@[simp] theorem State.withSchedule_mem (turns : List Turn) : (s.withSchedule turns).mem = s.mem := rfl
@[simp] theorem State.withSchedule_run (turns : List Turn) : (s.withSchedule turns).run = s.run := rfl
@[simp] theorem State.withSchedule_ar (turns : List Turn) : (s.withSchedule turns).ar = s.ar := rfl
@[simp] theorem State.withSchedule_sel (turns : List Turn) : (s.withSchedule turns).sel = s.sel := rfl
@[simp] theorem State.withSchedule_memShown (turns : List Turn) : (s.withSchedule turns).memShown = s.memShown := rfl
@[simp] theorem State.withSchedule_circuits (turns : List Turn) : (s.withSchedule turns).circuits = s.circuits := rfl
@[simp] theorem State.withSchedule_power (turns : List Turn) : (s.withSchedule turns).power = s.power := rfl
@[simp] theorem State.withSchedule_params (turns : List Turn) : (s.withSchedule turns).params = s.params := rfl
@[simp] theorem State.withSchedule_draws (turns : List Turn) : (s.withSchedule turns).draws = s.draws := rfl
@[simp] theorem State.withSchedule_schedule (turns : List Turn) : (s.withSchedule turns).schedule = turns := rfl

@[simp] theorem State.loseAll_mem (p : Power) : (s.loseAll p).mem = Memory.fill (Config.memPowerOn s.draws) 256 := rfl
@[simp] theorem State.loseAll_run (p : Power) : (s.loseAll p).run = Config.runPowerOn s.draws := rfl
@[simp] theorem State.loseAll_ar (p : Power) : (s.loseAll p).ar = Config.arPowerOn s.draws := rfl
@[simp] theorem State.loseAll_sel (p : Power) : (s.loseAll p).sel = Config.selPowerOn s.draws := rfl
@[simp] theorem State.loseAll_memShown (p : Power) : (s.loseAll p).memShown = Config.shownPowerOn s.draws := rfl
@[simp] theorem State.loseAll_circuits (p : Power) : (s.loseAll p).circuits = Circuits.undefined := rfl
@[simp] theorem State.loseAll_power (p : Power) : (s.loseAll p).power = p := rfl
@[simp] theorem State.loseAll_params (p : Power) : (s.loseAll p).params = s.params := rfl
@[simp] theorem State.loseAll_draws (p : Power) : (s.loseAll p).draws = s.draws + 1 := rfl
@[simp] theorem State.loseAll_schedule (p : Power) : (s.loseAll p).schedule = s.schedule := rfl

@[simp] theorem Circuits.undefined_afterStart : Circuits.undefined.afterStart = .started := rfl
@[simp] theorem Circuits.started_afterStart : Circuits.started.afterStart = .started := rfl
@[simp] theorem Circuits.initialised_afterStart : Circuits.initialised.afterStart = .initialised := rfl
@[simp] theorem Circuits.undefined_afterHalt : Circuits.undefined.afterHalt = .undefined := rfl
@[simp] theorem Circuits.started_afterHalt : Circuits.started.afterHalt = .initialised := rfl
@[simp] theorem Circuits.initialised_afterHalt : Circuits.initialised.afterHalt = .initialised := rfl

@[simp] theorem State.enterHalt_read (b : Byte) : (s.enterHalt).read b = s.read b := rfl
@[simp] theorem State.enterHalt_pc : (s.enterHalt).pc = s.pc := rfl
@[simp] theorem State.enterRun_read (b : Byte) : (s.enterRun).read b = s.read b := rfl
@[simp] theorem State.enterRun_pc : (s.enterRun).pc = s.pc := rfl
@[simp] theorem State.light_read (l : Sel) (b : Byte) : (s.light l).read b = s.read b := rfl
@[simp] theorem State.light_pc (l : Sel) : (s.light l).pc = s.pc := rfl
@[simp] theorem State.lightFree_read (b : Byte) : (s.lightFree).read b = s.read b := rfl
@[simp] theorem State.lightFree_pc : (s.lightFree).pc = s.pc := rfl
@[simp] theorem State.setAr_read (v : Byte) (b : Byte) : (s.setAr v).read b = s.read b := rfl
@[simp] theorem State.setAr_pc (v : Byte) : (s.setAr v).pc = s.pc := rfl
@[simp] theorem State.latchShown_read (v : Byte) (b : Byte) : (s.latchShown v).read b = s.read b := rfl
@[simp] theorem State.latchShown_pc (v : Byte) : (s.latchShown v).pc = s.pc := rfl
@[simp] theorem State.withSchedule_read (turns : List Turn) (b : Byte) : (s.withSchedule turns).read b = s.read b := rfl
@[simp] theorem State.withSchedule_pc (turns : List Turn) : (s.withSchedule turns).pc = s.pc := rfl

end Sys2Proof.Machine
end

