-- ==== Sys2Proof/Laws/Ops.lean ====
section
/-! SUPPORT. For each shared operation one lemma that says everything it can do; proofs cite these and do not unfold the
operations. -/

namespace Sys2Proof.Machine

/-- A read after a write. -/
theorem State.read_write (s : State) (a b v : Byte) : (s.write a v).read b = if b = a then v else s.read b :=
  Memory.read_write s.mem a b v

theorem State.read_setPc (s : State) (b v : Byte) : (s.setPc v).read b = if b = addrP then v else s.read b :=
  State.read_write s addrP b v

/-- `advance n` (R111): P takes what it holds plus n, every other byte stays. -/
theorem State.read_advance (s : State) (b n : Byte) :
    (s.advance n).read b = if b = addrP then s.pc + n else s.read b :=
  State.read_write s addrP b (s.pc + n)

theorem State.pc_write (s : State) (a v : Byte) : (s.write a v).pc = if addrP = a then v else s.pc :=
  State.read_write s a addrP v

theorem State.write_wf (s : State) (a v : Byte) (h : s.mem.wf = true) : (s.write a v).mem.wf = true :=
  Memory.write_wf s.mem a v h

theorem State.advance_wf (s : State) (n : Byte) (h : s.mem.wf = true) : (s.advance n).mem.wf = true :=
  Memory.write_wf s.mem addrP (s.pc + n) h

theorem State.loseAll_wf (s : State) (p : Power) : (s.loseAll p).mem.wf = true :=
  Memory.fill_wf _ 256

/-- R240: after power-on every byte is the free draw of its address. -/
theorem State.read_loseAll (s : State) (p : Power) (a : Byte) : (s.loseAll p).read a = Config.memPowerOn s.draws a :=
  Memory.fill_read _ a

theorem sameBesideMemory_run (s t : State) (h : SameBesideMemory s t) : t.run = s.run :=
  (congrArg State.run h : ({ t with mem := s.mem } : State).run = s.run)

theorem sameBesideMemory_ar (s t : State) (h : SameBesideMemory s t) : t.ar = s.ar :=
  (congrArg State.ar h : ({ t with mem := s.mem } : State).ar = s.ar)

theorem sameBesideMemory_sel (s t : State) (h : SameBesideMemory s t) : t.sel = s.sel :=
  (congrArg State.sel h : ({ t with mem := s.mem } : State).sel = s.sel)

theorem sameBesideMemory_memShown (s t : State) (h : SameBesideMemory s t) : t.memShown = s.memShown :=
  (congrArg State.memShown h : ({ t with mem := s.mem } : State).memShown = s.memShown)

theorem sameBesideMemory_circuits (s t : State) (h : SameBesideMemory s t) : t.circuits = s.circuits :=
  (congrArg State.circuits h : ({ t with mem := s.mem } : State).circuits = s.circuits)

theorem sameBesideMemory_power (s t : State) (h : SameBesideMemory s t) : t.power = s.power :=
  (congrArg State.power h : ({ t with mem := s.mem } : State).power = s.power)

theorem sameBesideMemory_params (s t : State) (h : SameBesideMemory s t) : t.params = s.params :=
  (congrArg State.params h : ({ t with mem := s.mem } : State).params = s.params)

theorem sameBesideMemory_draws (s t : State) (h : SameBesideMemory s t) : t.draws = s.draws :=
  (congrArg State.draws h : ({ t with mem := s.mem } : State).draws = s.draws)

theorem sameBesideMemory_schedule (s t : State) (h : SameBesideMemory s t) : t.schedule = s.schedule :=
  (congrArg State.schedule h : ({ t with mem := s.mem } : State).schedule = s.schedule)

theorem State.write_same (s : State) (a v : Byte) : SameBesideMemory s (s.write a v) := rfl

theorem State.advance_same (s : State) (n : Byte) : SameBesideMemory s (s.advance n) := rfl

theorem State.shiftReg_same (s : State) (g : ShiftReg) (f : Byte → Byte) : SameBesideMemory s (s.shiftReg g f) := rfl

/-- `branch` writes P and nothing else. -/
theorem State.read_branch (s : State) (taken : Bool) (target b : Byte) :
    (s.branch taken target).read b = if b = addrP then (if taken then target else s.pc + 2) else s.read b := by
  cases taken
  · exact State.read_advance s b 2
  · exact State.read_setPc s b target

theorem State.branch_same (s : State) (taken : Bool) (target : Byte) :
    SameBesideMemory s (s.branch taken target) := by
  cases taken <;> rfl

theorem State.branch_wf (s : State) (taken : Bool) (target : Byte) (h : s.mem.wf = true) :
    (s.branch taken target).mem.wf = true := by
  cases taken
  · exact State.advance_wf s 2 h
  · exact State.write_wf s addrP target h

/-- A taken Jump and Mark writes the mark at the target, then P (which wins where the target is P itself, R111). -/
theorem State.read_jumpAndMark_taken (s : State) (target b : Byte) :
    (s.jumpAndMark true target).read b =
      if b = addrP then target + 1 else if b = target then s.pc + 2 else s.read b := by
  simp only [State.jumpAndMark, if_true, State.read_setPc, State.read_write]

/-- A Jump and Mark that is not taken advances P and stores nothing. -/
theorem State.jumpAndMark_not_taken (s : State) (target : Byte) : s.jumpAndMark false target = s.advance 2 := rfl

theorem State.jumpAndMark_same (s : State) (taken : Bool) (target : Byte) :
    SameBesideMemory s (s.jumpAndMark taken target) := by
  cases taken <;> rfl

theorem State.jumpAndMark_wf (s : State) (taken : Bool) (target : Byte) (h : s.mem.wf = true) :
    (s.jumpAndMark taken target).mem.wf = true := by
  cases taken
  · exact State.advance_wf s 2 h
  · exact State.write_wf _ addrP _ (State.write_wf s target _ h)

theorem shiftRegAddr_ne_addrP (g : ShiftReg) : shiftRegAddr g ≠ addrP := by cases g <;> decide

theorem regAddr_ne_addrP (r : Reg) : regAddr r ≠ addrP := by cases r <;> decide

theorem flagAddr_ne_addrP (r : Reg) : flagAddr r ≠ addrP := by cases r <;> decide

theorem regAddr_ne_flagAddr (r r' : Reg) : regAddr r ≠ flagAddr r' := by cases r <;> cases r' <;> decide

/-- A shift or rotate writes its register and advances P by one. -/
theorem State.read_shiftReg (s : State) (g : ShiftReg) (f : Byte → Byte) (b : Byte) :
    (s.shiftReg g f).read b =
      if b = addrP then s.pc + 1 else if b = shiftRegAddr g then f (s.read (shiftRegAddr g)) else s.read b := by
  have h : addrP ≠ shiftRegAddr g := (shiftRegAddr_ne_addrP g).symm
  simp only [State.shiftReg, State.read_advance, State.pc_write, State.read_write, if_neg h]

theorem State.shiftReg_wf (s : State) (g : ShiftReg) (f : Byte → Byte) (h : s.mem.wf = true) :
    (s.shiftReg g f).mem.wf = true :=
  State.advance_wf _ 1 (State.write_wf s _ _ h)

/-- The schedule empty: a step is the processor's turn. -/
theorem step_of_empty (s : State) (h : s.schedule = []) : step s = processorTurn s := by
  simp only [step, turn, h]

/-- The schedule gives the processor the next turn. -/
theorem step_of_processor (s : State) (rest : List Turn) (h : s.schedule = .processor :: rest) :
    step s = processorTurn (s.withSchedule rest) := by
  simp only [step, turn, h]

/-- The schedule gives the operator the next turn. -/
theorem step_of_operator (s : State) (e : ConsoleEvent) (rest : List Turn) (h : s.schedule = .operator e :: rest) :
    step s = operatorTurn e (s.withSchedule rest) := by
  simp only [step, turn, h]

/-- Power on and in the Run state: the processor's turn is one instruction cycle. -/
theorem processorTurn_of_run (s : State) (hp : s.power = .on) (hr : s.run = .run) :
    processorTurn s = instructionCycle s := by
  simp only [processorTurn, hp, hr]

/-- In the Halt state the processor's turn changes nothing. -/
theorem processorTurn_of_halt (s : State) (hp : s.power = .on) (hr : s.run = .halt) : processorTurn s = .next s := by
  simp only [processorTurn, hp, hr]

end Sys2Proof.Machine
end

