-- ==== Sys2Proof/Laws/Console.lean ====
section
/-! SUPPORT. For each console press one lemma on what it does to memory, and what it keeps. -/

namespace Sys2Proof.Machine

/-- R212: one bit of location 0o377 is set; every other byte stays. -/
theorem State.read_pressData (s : State) (i : Fin 8) (b : Byte) :
    (s.pressData i).read b = if b = addrIn then s.read addrIn ||| (1 : Byte) <<< i.val else s.read b :=
  State.read_write s addrIn b _

theorem State.pressData_same (s : State) (i : Fin 8) : SameBesideMemory s (s.pressData i) := rfl

theorem State.pressData_wf (s : State) (i : Fin 8) (h : s.mem.wf = true) : (s.pressData i).mem.wf = true :=
  State.write_wf s addrIn _ h

/-- R213: location 0o377 is erased; every other byte stays. -/
theorem State.read_pressClear (s : State) (b : Byte) :
    s.pressClear.read b = if b = addrIn then 0 else s.read b :=
  State.read_write s addrIn b 0

theorem State.pressClear_same (s : State) : SameBesideMemory s s.pressClear := rfl

theorem State.pressClear_wf (s : State) (h : s.mem.wf = true) : s.pressClear.mem.wf = true :=
  State.write_wf s addrIn 0 h

/-- R214: memory stays. -/
theorem State.pressAddressSet_mem (s : State) : s.pressAddressSet.mem = s.mem := rfl

/-- R215: memory stays. -/
theorem State.pressAddressDisplay_mem (s : State) : s.pressAddressDisplay.mem = s.mem := rfl

/-- R216: memory stays. -/
theorem State.pressMemoryRead_mem (s : State) : s.pressMemoryRead.mem = s.mem := rfl

/-- R217: the byte at the Address Register takes location 0o377; every other byte stays. -/
theorem State.read_pressMemoryStore (s : State) (b : Byte) :
    s.pressMemoryStore.read b = if b = s.ar then s.read addrIn else s.read b :=
  State.read_write s s.ar b _

theorem State.pressMemoryStore_wf (s : State) (h : s.mem.wf = true) : s.pressMemoryStore.mem.wf = true :=
  State.write_wf s s.ar _ h

/-- R241: Start and then the end of the Run state initialise the control circuits, whatever they were. -/
theorem Circuits.afterHalt_afterStart (c : Circuits) : c.afterStart.afterHalt = .initialised := by cases c <;> rfl

/-- A second end of the Run state does nothing more to the control circuits. -/
theorem Circuits.afterHalt_afterHalt (c : Circuits) : c.afterHalt.afterHalt = c.afterHalt := by cases c <;> rfl

/-- R35: the end of the Run state makes the control circuits defined only where Start was pressed before. -/
theorem Circuits.afterHalt_eq_initialised (c : Circuits) :
    c.afterHalt = .initialised ↔ c = .started ∨ c = .initialised := by cases c <;> decide

/-- R219, R241: Start in the Run state answers only as the power-on procedure's one Start. -/
theorem startInRun_next (s t : State) (h : startInRun s = .next t) : s.circuits = .undefined ∧ t = s.enterRun := by
  unfold startInRun at h
  split at h <;> rename_i hc
  · cases h; exact ⟨hc, rfl⟩
  · cases h
  · cases h

/-- R223: a single step is one instruction cycle from the entered Run state, then Halt. -/
theorem singleStep_next (s t : State) (h : singleStep s = .next t) :
    ∃ u, instructionCycle s.enterRun = .next u ∧ t = u.enterHalt := by
  unfold singleStep at h
  split at h
  · rename_i u hu; cases h; exact ⟨u, hu, rfl⟩
  · cases h
  · cases h

end Sys2Proof.Machine
end

