-- ==== Sys2Proof/Laws/PerInstr.lean ====
section
/-! SUPPORT. A statement about every instruction as syntax, one lemma per constructor: its encoding has the length that
R82 reads from its first byte. -/

namespace Sys2Proof.Laws

/-- R82: an instruction of the machine whose `P_NOOP31_LEN` is `len` has as many bytes as the length rule gives for its
first byte. -/
def LengthRule.Statement (i : Instr) : Prop :=
  ∀ len : Noop31Length, i.wellFormed len = true →
    ∃ b1 rest, encode i = b1 :: rest ∧ (encode i).length = instrLength len b1

/-- R82: a first byte whose third digit is 2 is followed by a second byte. -/
theorem lengthRule_bit (len : Noop31Length) (d1 : BitVec 2) (k : Fin 8) :
    2 = instrLength len (octalByte d1 (BitVec.ofFin k) 2) := by
  cases len <;> revert d1 k <;> decide

theorem LengthRule.add (r : Reg) (m : Mode) (b2 : Byte) : LengthRule.Statement (.add r m b2) := by
  intro len _
  refine ⟨_, _, rfl, ?_⟩
  cases len <;> cases r <;> cases m <;> rfl

theorem LengthRule.sub (r : Reg) (m : Mode) (b2 : Byte) : LengthRule.Statement (.sub r m b2) := by
  intro len _
  refine ⟨_, _, rfl, ?_⟩
  cases len <;> cases r <;> cases m <;> rfl

theorem LengthRule.load (r : Reg) (m : Mode) (b2 : Byte) : LengthRule.Statement (.load r m b2) := by
  intro len _
  refine ⟨_, _, rfl, ?_⟩
  cases len <;> cases r <;> cases m <;> rfl

theorem LengthRule.store (r : Reg) (m : Mode) (b2 : Byte) : LengthRule.Statement (.store r m b2) := by
  intro len _
  refine ⟨_, _, rfl, ?_⟩
  cases len <;> cases r <;> cases m <;> rfl

theorem LengthRule.and (m : Mode) (b2 : Byte) : LengthRule.Statement (.and m b2) := by
  intro len _
  refine ⟨_, _, rfl, ?_⟩
  cases len <;> cases m <;> rfl

theorem LengthRule.or (m : Mode) (b2 : Byte) : LengthRule.Statement (.or m b2) := by
  intro len _
  refine ⟨_, _, rfl, ?_⟩
  cases len <;> cases m <;> rfl

theorem LengthRule.lneg (m : Mode) (b2 : Byte) : LengthRule.Statement (.lneg m b2) := by
  intro len _
  refine ⟨_, _, rfl, ?_⟩
  cases len <;> cases m <;> rfl

theorem LengthRule.noop31 (m : Mode) (second : Option Byte) : LengthRule.Statement (.noop31 m second) := by
  intro len h
  refine ⟨_, _, rfl, ?_⟩
  cases len <;> cases second <;> first | (cases m <;> rfl) | cases h

theorem LengthRule.jpd (t : JumpTest) (c : Cond) (b2 : Byte) : LengthRule.Statement (.jpd t c b2) := by
  intro len _
  refine ⟨_, _, rfl, ?_⟩
  cases t with
  | reg r => cases len <;> cases r <;> cases c <;> rfl
  | unconditional => cases len <;> cases c <;> rfl

theorem LengthRule.jpi (t : JumpTest) (c : Cond) (b2 : Byte) : LengthRule.Statement (.jpi t c b2) := by
  intro len _
  refine ⟨_, _, rfl, ?_⟩
  cases t with
  | reg r => cases len <;> cases r <;> cases c <;> rfl
  | unconditional => cases len <;> cases c <;> rfl

theorem LengthRule.jmd (t : JumpTest) (c : Cond) (b2 : Byte) : LengthRule.Statement (.jmd t c b2) := by
  intro len _
  refine ⟨_, _, rfl, ?_⟩
  cases t with
  | reg r => cases len <;> cases r <;> cases c <;> rfl
  | unconditional => cases len <;> cases c <;> rfl

theorem LengthRule.jmi (t : JumpTest) (c : Cond) (b2 : Byte) : LengthRule.Statement (.jmi t c b2) := by
  intro len _
  refine ⟨_, _, rfl, ?_⟩
  cases t with
  | reg r => cases len <;> cases r <;> cases c <;> rfl
  | unconditional => cases len <;> cases c <;> rfl

theorem LengthRule.skp0 (k : Fin 8) (b2 : Byte) : LengthRule.Statement (.skp0 k b2) :=
  fun len _ => ⟨_, _, rfl, lengthRule_bit len 2 k⟩

theorem LengthRule.skp1 (k : Fin 8) (b2 : Byte) : LengthRule.Statement (.skp1 k b2) :=
  fun len _ => ⟨_, _, rfl, lengthRule_bit len 3 k⟩

theorem LengthRule.set0 (k : Fin 8) (b2 : Byte) : LengthRule.Statement (.set0 k b2) :=
  fun len _ => ⟨_, _, rfl, lengthRule_bit len 0 k⟩

theorem LengthRule.set1 (k : Fin 8) (b2 : Byte) : LengthRule.Statement (.set1 k b2) :=
  fun len _ => ⟨_, _, rfl, lengthRule_bit len 1 k⟩

theorem LengthRule.sftl (g : ShiftReg) (n : Places) : LengthRule.Statement (.sftl g n) := by
  intro len _
  refine ⟨_, _, rfl, ?_⟩
  cases len <;> cases g <;> cases n <;> rfl

theorem LengthRule.sftr (g : ShiftReg) (n : Places) : LengthRule.Statement (.sftr g n) := by
  intro len _
  refine ⟨_, _, rfl, ?_⟩
  cases len <;> cases g <;> cases n <;> rfl

theorem LengthRule.rotl (g : ShiftReg) (n : Places) : LengthRule.Statement (.rotl g n) := by
  intro len _
  refine ⟨_, _, rfl, ?_⟩
  cases len <;> cases g <;> cases n <;> rfl

theorem LengthRule.rotr (g : ShiftReg) (n : Places) : LengthRule.Statement (.rotr g n) := by
  intro len _
  refine ⟨_, _, rfl, ?_⟩
  cases len <;> cases g <;> cases n <;> rfl

theorem LengthRule.noop (dontCare : BitVec 4) : LengthRule.Statement (.noop dontCare) := by
  intro len _
  refine ⟨_, _, rfl, ?_⟩
  cases len <;> revert dontCare <;> decide

theorem LengthRule.halt (dontCare : BitVec 4) : LengthRule.Statement (.halt dontCare) := by
  intro len _
  refine ⟨_, _, rfl, ?_⟩
  cases len <;> revert dontCare <;> decide

end Sys2Proof.Laws
end

