-- ==== Sys2Proof/Machine/Symbolic.lean ====
section
/-! DEFINITION. The source's paper notation for an instruction (spec 30_encoding.md R100 to R102), in the spelling R102
fixes (log 23). No meaning reads it. -/

namespace Sys2Proof

/-- One octal digit. -/
def octalDigit : Nat → String
  | 0 => "0"
  | 1 => "1"
  | 2 => "2"
  | 3 => "3"
  | 4 => "4"
  | 5 => "5"
  | 6 => "6"
  | _ => "7"

/-- R6: a byte as three octal digits. -/
def octalAddress (v : Byte) : String :=
  octalDigit (v.toNat / 64) ++ octalDigit (v.toNat / 8 % 8) ++ octalDigit (v.toNat % 8)

/-- An octal number without leading zeros, as in `C=1`. -/
def octalNumber (v : Byte) : String :=
  if v.toNat < 8 then octalDigit v.toNat
  else if v.toNat < 64 then octalDigit (v.toNat / 8) ++ octalDigit (v.toNat % 8)
  else octalAddress v

/-- R101: the names A, B, X and P stand for the addresses 0o000 to 0o003 in the third field. -/
def addressName (a : Byte) : String :=
  match a.toNat with
  | 0 => "A"
  | 1 => "B"
  | 2 => "X"
  | 3 => "P"
  | _ => octalAddress a

/-- R102: the letter of a register. -/
def Reg.letter : Reg → String
  | .a => "A"
  | .b => "B"
  | .x => "X"

/-- R102: the letter of a shifted register. -/
def ShiftReg.letter : ShiftReg → String
  | .a => "A"
  | .b => "B"

/-- R102: the place count after the register letter. -/
def Places.digit : Places → String
  | .one => "1"
  | .two => "2"
  | .three => "3"
  | .four => "4"

/-- R102: the condition spellings of this spec. -/
def Cond.name : Cond → String
  | .nonZero => "NZ"
  | .zero => "Z"
  | .negative => "LT"
  | .positive => "GE"
  | .positiveNonZero => "GT"

/-- R101: the third field of the five addressing modes. -/
def operandField (m : Mode) (b2 : Byte) : String :=
  match m with
  | .constant => "C=" ++ octalNumber b2
  | .memory => addressName b2
  | .indirect => "(" ++ addressName b2 ++ ")"
  | .indexed => addressName b2 ++ ",X"
  | .indirectIndexed => "(" ++ addressName b2 ++ "),X"

/-- R102: the second field of a jump. -/
def jumpField (t : JumpTest) (c : Cond) : String :=
  match t with
  | .reg r => r.letter ++ "." ++ c.name
  | .unconditional => "UNC"

/-- R100 to R102: the symbolic form of an instruction. -/
def Instr.symbolic : Instr → String
  | .add r m b2 => "ADD " ++ r.letter ++ " " ++ operandField m b2
  | .sub r m b2 => "SUB " ++ r.letter ++ " " ++ operandField m b2
  | .load r m b2 => "LOAD " ++ r.letter ++ " " ++ operandField m b2
  | .store r m b2 => "STORE " ++ r.letter ++ " " ++ operandField m b2
  | .and m b2 => "AND A " ++ operandField m b2
  | .or m b2 => "OR A " ++ operandField m b2
  | .lneg m b2 => "LNEG A " ++ operandField m b2
  | .noop31 _ _ => "NOOP31"
  | .jpd t c b2 => "JPD " ++ jumpField t c ++ " " ++ addressName b2
  | .jpi t c b2 => "JPI " ++ jumpField t c ++ " (" ++ addressName b2 ++ ")"
  | .jmd t c b2 => "JMD " ++ jumpField t c ++ " " ++ addressName b2
  | .jmi t c b2 => "JMI " ++ jumpField t c ++ " (" ++ addressName b2 ++ ")"
  | .skp0 k b2 => "SKP 0 " ++ octalDigit k.val ++ " " ++ addressName b2
  | .skp1 k b2 => "SKP 1 " ++ octalDigit k.val ++ " " ++ addressName b2
  | .set0 k b2 => "SET 0 " ++ octalDigit k.val ++ " " ++ addressName b2
  | .set1 k b2 => "SET 1 " ++ octalDigit k.val ++ " " ++ addressName b2
  | .sftl g n => "SFTL " ++ g.letter ++ n.digit
  | .sftr g n => "SFTR " ++ g.letter ++ n.digit
  | .rotl g n => "ROTL " ++ g.letter ++ n.digit
  | .rotr g n => "ROTR " ++ g.letter ++ n.digit
  | .noop _ => "NOOP"
  | .halt _ => "HALT"

end Sys2Proof
end

