-- ==== Sys2Proof/Tests/Slice0.lean ====
section
/-! SUPPORT. The model's own tests. Expected results are the vectors of spec/95_test_vectors.md (the section stands in each
comment), worked examples of the other files, or words written out bit by bit from 30_encoding.md. The theorems named
witness_… show states that meet the hypotheses of the statements in Certificates/Slice0/Obligations.lean. -/

namespace Sys2Proof.Tests

open Sys2Proof.Machine

/-! ### Helpers -/

/-- A memory from the bytes that are not zero. -/
def load (cells : List (Byte × Byte)) : Memory := cells.foldl (fun m c => m.write c.1 c.2) []

/-- A machine in the Run state with these bytes. -/
def machine (cells : List (Byte × Byte)) : State := { State.reset with mem := load cells, run := .run, sel := .run }

/-- A machine in the Run state with an instruction at p = 0o020, as section 95 has it. -/
def prog (b1 b2 : Byte) (cells : List (Byte × Byte)) : State :=
  machine ((0o003, 0o020) :: (0o020, b1) :: (0o021, b2) :: cells)

/-- The same with `P_SUB_CA = not_borrow` and `P_NOOP31_LEN = 1`. -/
def otherParams (s : State) : State := { s with params := { noop31Length := .one, subCarry := .notBorrow } }

/-- The outcome is a next state in which these locations hold these bytes. -/
def reads (o : Outcome) (cells : List (Byte × Byte)) : Bool :=
  match o with
  | .next t => cells.all fun c => t.read c.1 == c.2
  | .fault _ => false
  | .refused _ => false

/-- The outcome is a next state of which `f` holds. -/
def nextHas (o : Outcome) (f : State → Bool) : Bool :=
  match o with
  | .next t => f t
  | .fault _ => false
  | .refused _ => false

/-- A machine in the Halt state with these bytes and console events to come. -/
def halted (cells : List (Byte × Byte)) (events : List ConsoleEvent) : State :=
  { State.reset with mem := load cells, schedule := events.map Turn.operator }

/-! ### WellFormed: each check refuses an ill-formed term -/

theorem test_wellFormed_refuses_missing_second : (Instr.noop31 .memory none).wellFormed .two = false := by decide
theorem test_wellFormed_refuses_extra_second : (Instr.noop31 .memory (some 1)).wellFormed .one = false := by decide

/-! ### Decoding: words written out bit by bit from 30_encoding.md R83 to R88 -/

theorem test_decode_add : decodePair .two 0b01_000_011 1 = .add .b .constant 1 := by decide
theorem test_decode_sub : decodePair .two 0b10_001_110 0o100 = .sub .x .indexed 0o100 := by decide
theorem test_decode_load : decodePair .two 0b00_010_101 0 = .load .a .indirect 0 := by decide
theorem test_decode_store : decodePair .two 0b01_011_100 0o200 = .store .b .memory 0o200 := by decide
theorem test_decode_or : decodePair .two 0b11_000_011 3 = .or .constant 3 := by decide
theorem test_decode_and : decodePair .two 0b11_010_100 1 = .and .memory 1 := by decide
theorem test_decode_lneg : decodePair .two 0b11_011_111 2 = .lneg .indirectIndexed 2 := by decide
theorem test_decode_noop31 : decodePair .two 0b11_001_100 0o100 = .noop31 .memory (some 0o100) := by decide
theorem test_decode_noop31_short : decodePair .one 0b11_001_011 0o100 = .noop31 .constant none := by decide
theorem test_decode_jpd : decodePair .two 0b11_100_100 4 = .jpd .unconditional .zero 4 := by decide
theorem test_decode_jpi : decodePair .two 0b00_101_011 4 = .jpi (.reg .a) .nonZero 4 := by decide
theorem test_decode_jmd : decodePair .two 0b01_110_101 4 = .jmd (.reg .b) .negative 4 := by decide
theorem test_decode_jmi : decodePair .two 0b10_111_111 4 = .jmi (.reg .x) .positiveNonZero 4 := by decide
theorem test_decode_set0 : decodePair .two 0b00_111_010 9 = .set0 7 9 := by decide
theorem test_decode_set1 : decodePair .two 0b01_010_010 9 = .set1 2 9 := by decide
theorem test_decode_skp0 : decodePair .two 0b10_100_010 9 = .skp0 4 9 := by decide
theorem test_decode_skp1 : decodePair .two 0b11_001_010 9 = .skp1 1 9 := by decide
theorem test_decode_sftr : decodePair .two 0b00_1_11_001 9 = .sftr .b .three := by decide
theorem test_decode_rotr : decodePair .two 0b01_0_01_001 9 = .rotr .a .one := by decide
theorem test_decode_sftl : decodePair .two 0b10_0_00_001 9 = .sftl .a .four := by decide
theorem test_decode_rotl : decodePair .two 0b11_1_10_001 9 = .rotl .b .two := by decide
theorem test_decode_noop : decodePair .two 0b1_1100_000 9 = .noop 0b1100 := by decide
theorem test_decode_halt : decodePair .two 0b0_0000_000 9 = .halt 0 := by decide

/-- R82, R91: a list too short is rejected by name. -/
theorem test_decode_rejects_short : decode .two [0o003] = .error .noSecondByte ∧ decode .two [] = .error .noFirstByte :=
  ⟨rfl, rfl⟩

/-- The opcode-table word of `SET_0` with its don't-care bit position 0 and address 0. -/
theorem test_decodeTableWord : decodeTableWord 16 0x02 = some (.set0 0 0) ∧ decodeTableWord 8 0x80 = some (.noop 0) := by
  decide

/-- 47_register_idioms.md R180: the 34 operations, both spellings of the transfers, by bytes and symbolic form. -/
theorem test_register_idioms :
    ([(0o014, 0, "SUB A A"), (0o114, 1, "SUB B B"), (0o214, 2, "SUB X X"), (0o124, 0, "LOAD B A"), (0o034, 1, "STORE A B"),
      (0o224, 0, "LOAD X A"), (0o034, 2, "STORE A X"), (0o024, 1, "LOAD A B"), (0o134, 0, "STORE B A"),
      (0o224, 1, "LOAD X B"), (0o134, 2, "STORE B X"), (0o024, 2, "LOAD A X"), (0o234, 0, "STORE X A"),
      (0o124, 2, "LOAD B X"), (0o234, 1, "STORE X B"), (0o004, 0, "ADD A A"), (0o104, 1, "ADD B B"),
      (0o204, 2, "ADD X X"), (0o334, 0, "LNEG A A"), (0o334, 1, "LNEG A B"), (0o334, 2, "LNEG A X"),
      (0o004, 1, "ADD A B"), (0o014, 1, "SUB A B"), (0o004, 2, "ADD A X"), (0o014, 2, "SUB A X"), (0o104, 0, "ADD B A"),
      (0o114, 0, "SUB B A"), (0o104, 2, "ADD B X"), (0o114, 2, "SUB B X"), (0o204, 0, "ADD X A"), (0o214, 0, "SUB X A"),
      (0o204, 1, "ADD X B"), (0o214, 1, "SUB X B"), (0o324, 1, "AND A B"), (0o324, 2, "AND A X"), (0o304, 1, "OR A B"),
      (0o304, 2, "OR A X"), (0o034, 3, "STORE A P"), (0o134, 3, "STORE B P"), (0o234, 3, "STORE X P")] :
      List (Byte × Byte × String)).all
      (fun row => (decodePair .two row.1 row.2.1).symbolic == row.2.2) = true := by decide

/-- 30_encoding.md R101, R102 and 45: the other spellings. -/
theorem test_symbolic_forms :
    (decodePair .two 0o103 0o001).symbolic = "ADD B C=1" ∧ (decodePair .two 0o344 0o004).symbolic = "JPD UNC 004" ∧
    (decodePair .two 0o027 0o003).symbolic = "LOAD A (P),X" ∧ (decodePair .two 0o043 0o100).symbolic = "JPD A.NZ 100" ∧
    (decodePair .two 0o071 0).symbolic = "SFTR B3" ∧ (decodePair .two 0o272 0o377).symbolic = "SKP 0 7 377" := by decide

/-- 95 section 1.2: the number representations. -/
theorem test_number_representations :
    Byte.unsigned 0o377 = 255 ∧ Byte.signed 0o177 = 127 ∧ Byte.signed 0o200 = -128 ∧ Byte.fraction 0o200 = -1 := by
  refine ⟨by decide, by decide, by decide, ?_⟩
  show ((-128 : Int) : Rat) / 128 = -1
  norm_num

/-! ### ADD, SUB (95 sections 2.1, 2.2) -/

theorem test_add_overflow_clears_upper_bits : reads (step (prog 0o003 0o001 [(0, 0o177), (0o201, 0o377)]))
    [(0, 0o200), (0o201, 0o001), (3, 0o022)] = true := by decide
theorem test_add_wraps_at_top_of_memory : reads (step (machine [(0, 0o100), (0o100, 0o011), (3, 0o377), (0o377, 0o004)]))
    [(0, 0o111), (0o201, 0), (3, 0o001)] = true := by decide
theorem test_sub_borrow_and_overflow : reads (step (prog 0o013 0o377 [(0, 0o177), (0o201, 0o377)]))
    [(0, 0o200), (0o201, 0o003), (3, 0o022)] = true := by decide
theorem test_sub_not_borrow_old_index :
    reads (step (otherParams (prog 0o216 0o100 [(2, 0o003), (0o103, 0o005)]))) [(2, 0o376), (0o203, 0)] = true := by decide

/-! ### LOAD, STORE and the addressing modes (40 section 4; 95 sections 2.4, 2.5) -/

theorem test_load_five_modes :
    ([(0o023, 0o050), (0o024, 0o060), (0o025, 0o022), (0o026, 0o011), (0o027, 0o033)] : List (Byte × Byte)).all
      (fun row => reads (step (prog row.1 0o050
        [(2, 3), (0o050, 0o060), (0o053, 0o011), (0o060, 0o022), (0o063, 0o033)])) [(0, row.2), (3, 0o022)]) = true := by
  decide
theorem test_load_reads_p : reads (step (prog 0o024 0o003 [])) [(0, 0o020), (3, 0o022)] = true := by decide
theorem test_store_into_p : reads (step (prog 0o034 0o003 [(0, 0o377)])) [(3, 0o001)] = true := by decide
theorem test_store_immediate_over_p : reads (step (machine [(1, 0o050), (2, 0o133), (3, 0o002)])) [(3, 0o052)] = true := by
  decide

/-! ### AND, OR, LNEG (95 section 2.6) -/

theorem test_and : reads (step (prog 0o323 0o017 [(0, 0o314)])) [(0, 0o014), (3, 0o022)] = true := by decide
theorem test_or : reads (step (prog 0o303 0o017 [(0, 0o314)])) [(0, 0o317), (3, 0o022)] = true := by decide
theorem test_lneg_minus_128 : reads (step (prog 0o333 0o200 [(0, 0o111), (0o201, 0o003)]))
    [(0, 0o200), (0o201, 0o003)] = true := by decide
theorem test_lneg_register : reads (step (prog 0o334 0o001 [(1, 0o005)])) [(0, 0o373), (1, 0o005)] = true := by decide

/-! ### Jumps (95 section 2.7) -/

theorem test_jpd_conditions :
    ([(0, [0o022, 0o100, 0o022, 0o100, 0o022]), (1, [0o100, 0o022, 0o022, 0o100, 0o100]),
      (0o177, [0o100, 0o022, 0o022, 0o100, 0o100]), (0o200, [0o100, 0o022, 0o100, 0o022, 0o022]),
      (0o377, [0o100, 0o022, 0o100, 0o022, 0o022])] : List (Byte × List Byte)).all
      (fun row => (([0o043, 0o044, 0o045, 0o046, 0o047] : List Byte).zip row.2).all
        (fun c => reads (step (prog c.1 0o100 [(0, row.1)])) [(3, c.2)])) = true := by decide
theorem test_jpd_unconditional : reads (step (prog 0o344 0o100 [])) [(3, 0o100)] = true := by decide
theorem test_jpi_through_register : reads (step (prog 0o354 0o000 [(0, 0o077)])) [(3, 0o077)] = true := by decide
theorem test_jpi_through_p_repeats : reads (step (prog 0o354 0o003 [])) [(3, 0o020)] = true := by decide
theorem test_jmd_marks_tested_register : reads (step (prog 0o063 0o000 [(0, 0o005)])) [(0, 0o022), (3, 0o001)] = true := by
  decide
theorem test_jmd_to_p : reads (step (prog 0o364 0o003 [])) [(3, 0o004)] = true := by decide
theorem test_jmi_pointer_is_target : reads (step (prog 0o374 0o050 [(0o050, 0o050)]))
    [(0o050, 0o022), (3, 0o051)] = true := by decide
theorem test_jmi_not_taken : reads (step (prog 0o073 0o050 [(0o050, 0o100)])) [(0o100, 0), (3, 0o022)] = true := by decide

/-! ### Skip and set (95 section 2.8) -/

theorem test_skp0_wraps : reads (step (machine [(3, 0o375), (0o375, 0o202), (0o376, 0o100), (0o100, 0o376)]))
    [(3, 0o001)] = true := by decide
theorem test_skp0_not_met : reads (step (prog 0o272 0o377 [(0o377, 0o200)])) [(3, 0o022)] = true := by decide
theorem test_skp1_bit_of_p : reads (step (prog 0o342 0o003 [])) [(3, 0o024)] = true := by decide
theorem test_skp1_carry_clear : reads (step (prog 0o312 0o201 [(0o201, 0o001)])) [(3, 0o022)] = true := by decide
theorem test_set0_bit_of_p : reads (step (prog 0o042 0o003 [])) [(3, 0o002)] = true := by decide
theorem test_set0_input : reads (step (prog 0o002 0o377 [(0o377, 0o017)])) [(0o377, 0o016), (3, 0o022)] = true := by decide
theorem test_set1_bit_of_p : reads (step (prog 0o162 0o003 [])) [(3, 0o122)] = true := by decide
theorem test_set1_already_set : reads (step (prog 0o122 0o100 [(0o100, 0o125)])) [(0o100, 0o125)] = true := by decide

/-! ### Shifts and rotates (95 section 2.9), one to four places -/

theorem test_shift_table :
    ([(0o211, 0o142), (0o221, 0o304), (0o231, 0o210), (0o201, 0o020), (0o011, 0o330), (0o021, 0o354), (0o031, 0o366),
      (0o001, 0o373), (0o311, 0o143), (0o321, 0o306), (0o331, 0o215), (0o301, 0o033), (0o111, 0o330), (0o121, 0o154),
      (0o131, 0o066), (0o101, 0o033)] : List (Byte × Byte)).all
      (fun row => reads (step (prog row.1 0 [(0, 0o261)])) [(0, row.2), (3, 0o021)]) = true := by decide
theorem test_sftr_b : reads (step (prog 0o071 0 [(0, 0o111), (1, 0o210), (0o201, 3), (0o202, 3)]))
    [(0, 0o111), (1, 0o361), (0o201, 3), (0o202, 3)] = true := by decide

/-! ### NOOP, HALT, NOOP31 (95 section 2.10) -/

theorem test_noop_looks_like_jump : reads (step (prog 0o340 0o100 [])) [(3, 0o021)] = true := by decide
theorem test_halt : nextHas (step (prog 0o170 0 []))
    (fun t => t.run == .halt && t.sel == .none && t.pc == 0o021) = true := by decide
theorem test_noop31_two : reads (step (prog 0o314 0o100 [(0, 0o007)])) [(0, 0o007), (3, 0o022)] = true := by decide
theorem test_noop31_one : reads (step (otherParams (prog 0o314 0o100 []))) [(3, 0o021)] = true := by decide

/-! ### The console (95 section 2.11, 60_exceptions.md) -/

theorem test_data_button : nextHas (step (halted [(0o377, 0o040)] [.dataButton 3]))
    (fun t => t.read 0o377 == 0o050 && t.sel == .input && t.dataLamps == 0o050) = true := by decide
theorem test_clear_in_run_keeps_lamps :
    nextHas (step { machine [(0o377, 0o252)] with schedule := [.operator .clear] })
      (fun t => t.read 0o377 == 0 && t.sel == .run && t.run == .run) = true := by decide
theorem test_address_set : nextHas (step (halted [(0o377, 0o050)] [.addressSet])) (fun t => t.ar == 0o050) = true := by
  decide
theorem test_memory_read : nextHas (step { halted [(0o050, 0o123)] [.memoryRead] with ar := 0o050 })
    (fun t => t.dataLamps == 0o123 && t.ar == 0o051) = true := by decide
theorem test_memory_read_wraps : nextHas (step { halted [(0o377, 0o377)] [.memoryRead] with ar := 0o377 })
    (fun t => t.dataLamps == 0o377 && t.ar == 0o000) = true := by decide
theorem test_memory_store : nextHas (step { halted [(0o377, 0o050)] [.memoryStore] with ar := 0o052 })
    (fun t => t.read 0o052 == 0o050 && t.ar == 0o053) = true := by decide
theorem test_start_keeps_memory : nextHas (step (halted [(3, 0o004)] [.start]))
    (fun t => t.run == .run && t.sel == .run && t.pc == 0o004) = true := by decide
theorem test_first_start_in_run :
    nextHas (step { machine [] with schedule := [.operator .start] })
      (fun t => t.run == .run && t.circuits == .started) = true := by decide
theorem test_second_start_in_run :
    step { machine [] with circuits := .started, schedule := [.operator .start] } = .refused .undescribedInRun := rfl
theorem test_halt_before_start_leaves_circuits_undefined :
    nextHas (step (machine [])) (fun t => t.run == .halt && t.circuits == .undefined) = true := by decide
theorem test_single_step : nextHas (step (halted [(3, 0o004), (4, 0o103), (5, 0o001)] [.singleStep]))
    (fun t => t.run == .halt && t.sel == .none && t.pc == 0o006 && t.read 1 == 1) = true := by decide

/-! ### The host's interface -/

theorem test_withFetchWord_runs : reads (step (State.reset.withFetchWord 16 0x0503)) [(0, 0o010), (3, 2)] = true := by decide
theorem test_withFetchWord_beside_p :
    reads (step ({ State.reset with mem := load [(3, 3)] }.withFetchWord 16 0x0513)) [(0, 5), (3, 6)] = true := by decide

/-! ### Witnesses: the hypotheses of the statements can be met -/

/-- DecodeOfEncodeIsTheInstruction: both lengths of the codes 0o313 to 0o317. -/
theorem witness_wellFormed :
    (Instr.noop31 .constant (some 0o377)).wellFormed .two = true ∧ (Instr.noop31 .constant none).wellFormed .one = true := by
  decide

/-- StepKeepsMemoryCanonical, StepKeepsTheParameters: a canonical memory and a step that answers, of the processor and of
the operator. -/
theorem witness_step_next : (prog 0o003 0o001 []).mem.wf = true ∧ (∃ t, step (prog 0o003 0o001 []) = .next t) ∧
    ∃ t, step (halted [] [.memoryStore]) = .next t :=
  ⟨by decide, ⟨_, rfl⟩, ⟨_, rfl⟩⟩

/-- CanonicalMemoriesAreEqual: two canonical memories written in different orders that read the same everywhere. -/
theorem witness_canonical_memories : (load [(0o377, 1), (0, 2), (5, 3), (5, 0)]).wf = true ∧
    (load [(0, 2), (0o377, 1)]).wf = true ∧
    ∀ a : Byte, (load [(0o377, 1), (0, 2), (5, 3), (5, 0)]).read a = (load [(0, 2), (0o377, 1)]).read a := by decide

/-- StepRunsTheDecodedInstruction and StoredInstructionRuns, at the top of memory: the second byte is at 0o000. -/
theorem witness_stored_at_top :
    let s := machine [(0, 0o100), (3, 0o377), (0o377, 0o004)]
    s.Running ∧ decode s.params.noop31Length [s.read s.pc, s.read (s.pc + 1)] = .ok (.add .a .memory 0o100, []) ∧
      ∀ n : Fin 2, ∀ b, (encode (.add .a .memory 0o100))[n.val]? = some b → s.read (s.pc + BitVec.ofNat 8 n.val) = b := by
  refine ⟨⟨rfl, rfl, rfl⟩, rfl, ?_⟩
  intro n b h
  match n with
  | 0 => cases h; rfl
  | 1 => cases h; rfl

/-- StepRunsTheDecodedInstruction, second clause: the schedule names the processor. -/
theorem witness_processor_turn :
    let s := { machine [(3, 0o020), (0o020, 0o200)] with schedule := [.processor, .operator .stop] }
    s.power = .on ∧ s.run = .run ∧
      decode s.params.noop31Length [s.read s.pc, s.read (s.pc + 1)] = .ok (.noop 0, [0]) ∧
      s.schedule = .processor :: [.operator .stop] :=
  ⟨rfl, rfl, rfl, rfl⟩

/-- HaltedMachineExecutesNothing: halted, and off in the Run state; the processor's turn by an empty schedule and named. -/
theorem witness_halted_or_off : (State.reset.schedule = [] ∧ State.reset.run = .halt) ∧
    ({ machine [] with power := .off }.schedule = [] ∧ { machine [] with power := .off }.power = .off) ∧
    ({ State.reset with schedule := [.processor] }.schedule = .processor :: [] ∧
      { State.reset with schedule := [.processor] }.run = .halt) :=
  ⟨⟨rfl, rfl⟩, ⟨rfl, rfl⟩, rfl, rfl⟩

/-- InstructionsCannotSeeConsoleRegisters, OnlyAddAndSubUpdateFlags and the inner hypotheses of
EveryInstructionCompletesInItsFrame: an instruction answers, one that is HALT and one that is not. -/
theorem witness_exec_next : (∃ t, exec (.halt 0) State.reset = .next t) ∧
    (∃ t, exec (.add .x .memory 0o203) State.reset = .next t) ∧ ∀ x, Instr.add .x .memory 0o203 ≠ .halt x :=
  ⟨⟨_, rfl⟩, ⟨_, rfl⟩, fun _ h => nomatch h⟩

/-- OnlyAddAndSubUpdateFlags: a store, a SET and a Jump and Mark beside the flag byte of A, at the addresses next to it, and
ADD to the register itself and to another. -/
theorem witness_beside_flag_byte :
    (State.reset.effectiveAddress .memory 0o200 ≠ flagAddr .a ∧ ∃ t, exec (.store .a .memory 0o200) State.reset = .next t) ∧
    ((0o202 : Byte) ≠ flagAddr .a ∧ ∃ t, exec (.set1 0 0o202) State.reset = .next t) ∧
    (State.reset.read 0o201 ≠ flagAddr .a ∧ ∃ t, exec (.jmi .unconditional .zero 0o201) State.reset = .next t) ∧
    Reg.a ≠ Reg.b :=
  ⟨⟨by decide, _, rfl⟩, ⟨by decide, _, rfl⟩, ⟨by decide, _, rfl⟩, by decide⟩

/-- OnlyAddAndSubUpdateFlags: a Jump and Mark aimed at the flag byte of A that is not taken, and one beside it that is. -/
theorem witness_untaken_mark_at_flag_byte :
    ((State.reset.jumpTaken (.reg .a) .nonZero = true → (0o201 : Byte) ≠ flagAddr .a) ∧ (0o201 : Byte) = flagAddr .a ∧
      ∃ t, exec (.jmd (.reg .a) .nonZero 0o201) State.reset = .next t) ∧
    (State.reset.jumpTaken .unconditional .zero = true ∧ (0o200 : Byte) ≠ flagAddr .a ∧
      ∃ t, exec (.jmd .unconditional .zero 0o200) State.reset = .next t) :=
  ⟨⟨by decide, by decide, _, rfl⟩, by decide, by decide, _, rfl⟩

/-- RunStateLastsUntilHaltOrStop: HALT, and Stop. -/
theorem witness_leaves_run :
    nextHas (step (machine [(3, 0o020)])) (fun t => t.run == .halt) = true ∧
    nextHas (step { machine [] with schedule := [.operator .stop] }) (fun t => t.run == .halt) = true := by decide

/-- FiveAddressingModes: the fetched second byte, at p = 0o377. -/
theorem witness_fetched_constant : (machine [(0, 0o100), (3, 0o377)]).fetch.2 = 0o100 := by decide

/-- StoreCopiesRegisterToOperand, JumpAndMarkStoresReturnAddress, SetsChangeOneBit, SubroutineReturnsAfterCall: a
destination that is P, and one beside it. -/
theorem witness_destination_p_and_not :
    State.reset.effectiveAddress .memory 0o003 = addrP ∧ State.reset.effectiveAddress .memory 0o004 ≠ addrP ∧
    (machine [(3, 0o002)]).effectiveAddress .constant 0o050 = addrP ∧ State.reset.jumpTaken .unconditional .zero = true ∧
    State.reset.jumpTaken (.reg .a) .nonZero = false := by decide

/-- SubroutineReturnsAfterCall: after the call from 0o010 a later state holds what the call left. -/
theorem witness_later_state : ∃ t, exec (.jmd .unconditional .zero 0o040) (machine [(3, 0o010)]) = .next t ∧
    (machine [(3, 0o043), (0o040, 0o012)]).read 0o040 = t.read 0o040 :=
  ⟨_, rfl, by decide⟩

/-- LogicalInstructionsWriteA: the operand -128, and one that is not. -/
theorem witness_lneg_operands : Byte.signed ((prog 0o333 0o200 []).read 0o021) = -128 ∧
    Byte.signed ((prog 0o333 0o201 []).read 0o021) ≠ -128 := by decide

/-- DataLampsShowTheSelection: each selection. -/
theorem witness_selections : ∀ sel ∈ [Sel.input, .address, .memory, .run, .none], { State.reset with sel := sel }.sel = sel := by
  decide

/-- HaltEndsTheRunState (its Start clause) and the console statements: a halted machine with each event first in its schedule. -/
theorem witness_halt_events (e : ConsoleEvent) : (halted [] [e]).Halted ∧ (halted [] [e]).schedule = .operator e :: [] :=
  ⟨⟨rfl, rfl⟩, rfl⟩

/-- The console statements in the Run state: power on, running, each event first in the schedule, the control circuits
initialised, started and undefined. -/
theorem witness_run_events (e : ConsoleEvent) :
    let s := { machine [] with schedule := [.operator e] }
    s.power = .on ∧ s.run = .run ∧ s.schedule = .operator e :: [] ∧
      { s with circuits := .initialised }.circuits ≠ .undefined ∧ { s with circuits := .started }.circuits ≠ .undefined ∧
      s.circuits = .undefined :=
  ⟨rfl, rfl, rfl, (by decide : Circuits.initialised ≠ .undefined), (by decide : Circuits.started ≠ .undefined), rfl⟩

/-- PowerCycleLosesAllState and PowerOnProcedureReachesHalt: the two events one after the other. -/
theorem witness_power_events :
    (halted [] [.powerOff, .powerOn]).schedule = .operator .powerOff :: .operator .powerOn :: [] ∧
    (halted [] [.start, .stop]).schedule = .operator .start :: .operator .stop :: [] ∧
    (halted [] [.start, .stop]).power = .on ∧ (halted [] [.start, .stop]).circuits ≠ .initialised ∧
    ((halted [] [.start, .stop]).run = .run → (halted [] [.start, .stop]).circuits = .undefined) :=
  ⟨rfl, rfl, rfl, by decide, fun _ => rfl⟩

/-- StartEntersTheRunState, HaltEndsTheRunState: a halted machine with Start to come and initialised control circuits. -/
theorem witness_start_initialised :
    let s := { halted [] [.start] with circuits := .initialised }
    s.Halted ∧ s.schedule = .operator .start :: [] ∧ s.circuits = .initialised :=
  ⟨⟨rfl, rfl⟩, rfl, rfl⟩

/-- PowerOnProcedureInitialisesTheCircuits: turns that make the control circuits initialised (HALT after Start, the single
step), started (Start) and undefined (power off). -/
theorem witness_circuits_change :
    nextHas (step { machine [] with circuits := .started }) (fun t => t.circuits == .initialised) = true ∧
    nextHas (step (halted [] [.singleStep])) (fun t => t.circuits == .initialised) = true ∧
    nextHas (step (halted [] [.start])) (fun t => t.circuits == .started) = true ∧
    nextHas (step { halted [] [.powerOff] with circuits := .started }) (fun t => t.circuits == .undefined) = true := by
  decide

/-- LoadingSequenceStoresTheBytes: the source's program at 0o003, and a last byte at 0o376, the highest it may reach. -/
theorem witness_loading :
    let bytes : List Byte := [0o004, 0o103, 0o001, 0o134, 0o200, 0o344, 0o004]
    (0o003 : Byte).toNat + bytes.length ≤ 255 ∧ (0o376 : Byte).toNat + [(0o377 : Byte)].length ≤ 255 ∧
      { State.reset with schedule := loadProgram 0o003 bytes }.Halted :=
  ⟨by decide, by decide, rfl, rfl⟩

end Sys2Proof.Tests
end

section
/-! PROOFS. The family of 41_add_sub_load_store.md: a first byte as the number of its octal digits, the write of a
register before the advance of P, and LOAD. -/

namespace Sys2Proof.Machine

/-- R81: a first byte is the number its three octal digits write. -/
theorem octalByte_eq_ofNat (d1 : BitVec 2) (d2 d3 : BitVec 3) :
    octalByte d1 d2 d3 = BitVec.ofNat 8 (64 * d1.toNat + 8 * d2.toNat + d3.toNat) := by
  have h1 : (d1 ++ d2).toNat = 8 * d1.toNat + d2.toNat := by
    rw [BitVec.toNat_append, ← Nat.shiftLeft_add_eq_or_of_lt d2.isLt, Nat.shiftLeft_eq]
    omega
  have h2 : (octalByte d1 d2 d3).toNat = 64 * d1.toNat + 8 * d2.toNat + d3.toNat := by
    rw [octalByte, BitVec.toNat_append, ← Nat.shiftLeft_add_eq_or_of_lt d3.isLt, Nat.shiftLeft_eq, h1]
    omega
  rw [← h2, BitVec.ofNat_toNat, BitVec.setWidth_eq]

/-- R21 to R23, R83: the digit that designates a register is the register's address. -/
theorem reg_digit_toNat (r : Reg) : r.digit.toNat = (regAddr r).toNat := by cases r <;> rfl

/-- A write beside P, then the advance (R111): the byte takes its value, P what it held plus n, every other byte stays. -/
theorem State.read_advance_write (s : State) (a v n b : Byte) (ha : a ≠ addrP) :
    ((s.write a v).advance n).read b = if b = addrP then s.pc + n else if b = a then v else s.read b := by
  rw [State.read_advance, State.pc_write, if_neg ha.symm, State.read_write]

/-- Its frame: only the address written and P may change. -/
theorem State.advance_write_unchangedExcept (s : State) (a v n : Byte) (ha : a ≠ addrP) :
    UnchangedExcept s ((s.write a v).advance n) [a, addrP] := by
  intro b hb
  obtain ⟨hba, hbP⟩ : b ≠ a ∧ b ≠ addrP := by simpa using hb
  rw [State.read_advance_write s a v n b ha, if_neg hbP, if_neg hba]

/-- R83: the bytes of LOAD. -/
theorem encode_load (r : Reg) (m : Mode) (b2 : Byte) :
    encode (.load r m b2) = [BitVec.ofNat 8 (64 * (regAddr r).toNat + 8 * 2 + m.digit.toNat), b2] := by
  have h : octalByte r.digit 2 m.digit = BitVec.ofNat 8 (64 * (regAddr r).toNat + 8 * 2 + m.digit.toNat) := by
    rw [octalByte_eq_ofNat, reg_digit_toNat]
    rfl
  rw [encode, h]

/-- R123: LOAD writes the operand of the state before it to the register, then advances P by two. -/
theorem exec_load (r : Reg) (m : Mode) (b2 : Byte) (s : State) :
    exec (.load r m b2) s = .next ((s.write (regAddr r) (s.read (s.effectiveAddress m b2))).advance 2) := rfl

/-- Settles O23: LOAD is one write to a register, which is never P, and the advance. -/
theorem loadCopiesOperandToRegister : Obligations.LoadCopiesOperandToRegister := by
  intro r m b2 s
  have hr : regAddr r ≠ addrP := regAddr_ne_addrP r
  refine ⟨encode_load r m b2, _, exec_load r m b2 s, ?register, ?pc,
    State.advance_write_unchangedExcept s _ _ 2 hr, rfl⟩
  case register => rw [State.read_advance_write _ _ _ _ _ hr, if_neg hr, if_pos rfl]
  case pc => exact (State.read_advance_write _ _ _ _ addrP hr).trans (if_pos rfl)

end Sys2Proof.Machine
end

section
/-! PROOFS. The family of 42_and_or_lneg.md: the bytes and the meanings of AND, OR and LNEG, and the signed reading of
the value LNEG writes. -/

namespace Sys2Proof.Machine

/-- The address written before the advance holds the value written. -/
theorem State.read_advance_write_same (s : State) (a v n : Byte) (ha : a ≠ addrP) :
    ((s.write a v).advance n).read a = v := by
  rw [State.read_advance_write s a v n a ha, if_neg ha, if_pos rfl]

/-- R111: a write beside P leaves the advance to count from p. -/
theorem State.pc_advance_write (s : State) (a v n : Byte) (ha : a ≠ addrP) :
    ((s.write a v).advance n).pc = s.pc + n :=
  (State.read_advance_write s a v n addrP ha).trans (if_pos rfl)

/-- R84, R131: the bytes of AND. -/
theorem encode_and (m : Mode) (b2 : Byte) : encode (.and m b2) = [BitVec.ofNat 8 (0o320 + m.digit.toNat), b2] :=
  congrArg (fun b1 => [b1, b2]) (octalByte_eq_ofNat 3 2 m.digit)

/-- R84, R132: the bytes of OR. -/
theorem encode_or (m : Mode) (b2 : Byte) : encode (.or m b2) = [BitVec.ofNat 8 (0o300 + m.digit.toNat), b2] :=
  congrArg (fun b1 => [b1, b2]) (octalByte_eq_ofNat 3 0 m.digit)

/-- R84, R133: the bytes of LNEG. -/
theorem encode_lneg (m : Mode) (b2 : Byte) : encode (.lneg m b2) = [BitVec.ofNat 8 (0o330 + m.digit.toNat), b2] :=
  congrArg (fun b1 => [b1, b2]) (octalByte_eq_ofNat 3 3 m.digit)

/-- R131: AND writes the logical product to A, then advances P by two. -/
theorem exec_and (m : Mode) (b2 : Byte) (s : State) :
    exec (.and m b2) s =
      .next ((s.write addrA (s.read addrA &&& s.read (s.effectiveAddress m b2))).advance 2) := rfl

/-- R132: OR writes the inclusive OR to A, then advances P by two. -/
theorem exec_or (m : Mode) (b2 : Byte) (s : State) :
    exec (.or m b2) s =
      .next ((s.write addrA (s.read addrA ||| s.read (s.effectiveAddress m b2))).advance 2) := rfl

/-- R133: LNEG writes the operand subtracted from zero to A, then advances P by two. -/
theorem exec_lneg (m : Mode) (b2 : Byte) (s : State) :
    exec (.lneg m b2) s = .next ((s.write addrA (0 - s.read (s.effectiveAddress m b2))).advance 2) := rfl

/-- R131 to R133: what AND, OR and LNEG have in common. An instruction whose meaning is one write to A and the advance
completes with that value in A, P + 2, and nothing else changed. -/
theorem completes_of_exec_eq_write_a {i : Instr} {s : State} {w : Byte}
    (h : exec i s = .next ((s.write addrA w).advance 2)) :
    ∃ t, exec i s = .next t ∧ t.read addrA = w ∧
      t.pc = s.pc + 2 ∧ UnchangedExcept s t [addrA, addrP] ∧ SameBesideMemory s t :=
  have hA : addrA ≠ addrP := regAddr_ne_addrP .a
  ⟨_, h, State.read_advance_write_same s addrA w 2 hA, State.pc_advance_write s addrA w 2 hA,
    State.advance_write_unchangedExcept s addrA w 2 hA, rfl⟩

/-- R133: subtracting from zero is the complement plus one. -/
theorem zero_sub_eq_not_add_one (v : Byte) : 0 - v = ~~~v + 1 :=
  (BitVec.zero_sub v).trans (BitVec.neg_eq_not_add v)

/-- R133: the overflow case; -128 subtracted from zero is -128 again. -/
theorem signed_zero_sub_of_eq (v : Byte) (h : v.signed = -128) : Byte.signed (0 - v) = -128 := by
  have hv : v = 0o200 := BitVec.eq_of_toInt_eq h
  rw [hv]
  rfl

/-- R133: every other value subtracted from zero is its arithmetic negative. -/
theorem signed_zero_sub_of_ne (v : Byte) (h : v.signed ≠ -128) : Byte.signed (0 - v) = -v.signed := by
  have hv : v ≠ BitVec.intMin 8 := fun e => h (congrArg BitVec.toInt e)
  exact (congrArg BitVec.toInt (BitVec.zero_sub v)).trans (BitVec.toInt_neg_of_ne_intMin hv)

/-- Settles O29: the three share the write to A and the frame; AND and OR are read bit by bit, LNEG as a signed value. -/
theorem logicalInstructionsWriteA : Obligations.LogicalInstructionsWriteA := by
  intro m b2 s a v
  obtain ⟨tAnd, hAnd, hAndA, frameAnd⟩ := completes_of_exec_eq_write_a (exec_and m b2 s)
  obtain ⟨tOr, hOr, hOrA, frameOr⟩ := completes_of_exec_eq_write_a (exec_or m b2 s)
  obtain ⟨tLneg, hLneg, hLnegA, frameLneg⟩ := completes_of_exec_eq_write_a (exec_lneg m b2 s)
  refine ⟨encode_and m b2, encode_or m b2, encode_lneg m b2, ⟨tAnd, hAnd, ?and, frameAnd⟩,
    ⟨tOr, hOr, ?or, frameOr⟩, ⟨tLneg, hLneg, ?complement, ?overflow, ?negative, frameLneg⟩⟩
  case and =>
    intro k _
    rw [hAndA, BitVec.getLsbD_and, Bool.and_comm]
  case or =>
    intro k _
    rw [hOrA, BitVec.getLsbD_or, Bool.or_comm]
  case complement => exact hLnegA.trans (zero_sub_eq_not_add_one v)
  case overflow => exact hLnegA ▸ signed_zero_sub_of_eq v
  case negative => exact hLnegA ▸ signed_zero_sub_of_ne v

end Sys2Proof.Machine
end

section
/-! PROOFS. The family of 43_jumps.md: the conditions in the signed reading of the tested byte, what a branch leaves, and
the bytes and the meanings of JPD and JPI. -/

namespace Sys2Proof.Machine

/-- R7: a byte reads as the signed number 0 only where all its bits are 0. -/
theorem signed_eq_zero_iff (v : Byte) : v.signed = 0 ↔ v = 0 := by
  rw [← BitVec.toInt_inj]
  rfl

/-- R7: b7 is the sign. -/
theorem msb_eq_true_iff_signed_neg (v : Byte) : v.msb = true ↔ v.signed < 0 := by
  rw [BitVec.msb_eq_toInt, decide_eq_true_iff]

/-- R141: Non-zero. -/
theorem condHolds_nonZero (v : Byte) : condHolds .nonZero v = true ↔ v.signed ≠ 0 :=
  bne_iff_ne.trans (not_congr (signed_eq_zero_iff v).symm)

/-- R141: Zero. -/
theorem condHolds_zero (v : Byte) : condHolds .zero v = true ↔ v.signed = 0 :=
  beq_iff_eq.trans (signed_eq_zero_iff v).symm

/-- R141: Negative. -/
theorem condHolds_negative (v : Byte) : condHolds .negative v = true ↔ v.signed < 0 :=
  msb_eq_true_iff_signed_neg v

/-- R141: Positive is not Negative. -/
theorem condHolds_positive (v : Byte) : condHolds .positive v = true ↔ 0 ≤ v.signed := by
  have h : condHolds .positive v = !condHolds .negative v := rfl
  rw [h, Bool.not_eq_true', ← Bool.not_eq_true, condHolds_negative, Int.not_lt]

/-- R141: Positive Non-zero is Positive and Non-zero. -/
theorem condHolds_positiveNonZero (v : Byte) : condHolds .positiveNonZero v = true ↔ 0 < v.signed := by
  have h : condHolds .positiveNonZero v = (condHolds .positive v && condHolds .nonZero v) := rfl
  rw [h, Bool.and_eq_true, condHolds_positive, condHolds_nonZero]
  omega

/-- Settles O30: the digits by evaluation, each condition by its signed reading of the tested register. -/
theorem jumpConditionReadsRegister : Obligations.JumpConditionReadsRegister := by
  refine ⟨rfl, rfl, fun r _ s => ⟨rfl, ?_⟩⟩
  have tested : ∀ c, s.jumpTaken (.reg r) c = condHolds c (s.read (regAddr r)) := fun _ => rfl
  simp only [tested]
  exact ⟨condHolds_nonZero _, condHolds_zero _, condHolds_negative _, condHolds_positive _,
    condHolds_positiveNonZero _⟩

/-- R111, R142: an instruction whose meaning is one branch completes with P at the target where the branch is taken, else
at P + 2, and nothing else changed. -/
theorem completes_of_exec_eq_branch {i : Instr} {s : State} {taken : Bool} {target : Byte}
    (h : exec i s = .next (s.branch taken target)) :
    ∃ t, exec i s = .next t ∧ t.pc = (if taken then target else s.pc + 2) ∧
      UnchangedExcept s t [addrP] ∧ SameBesideMemory s t := by
  refine ⟨_, h, ?pc, ?frame, State.branch_same s taken target⟩
  case pc => exact (State.read_branch s taken target addrP).trans (if_pos rfl)
  case frame =>
    intro b hb
    rw [State.read_branch, if_neg (mt List.mem_singleton.mpr hb)]

/-- R85, R142: the bytes of JPD. -/
theorem encode_jpd (test : JumpTest) (c : Cond) (b2 : Byte) :
    encode (.jpd test c b2) = [BitVec.ofNat 8 (64 * test.digit.toNat + 8 * 4 + c.digit.toNat), b2] :=
  congrArg (fun b1 => [b1, b2]) (octalByte_eq_ofNat test.digit 4 c.digit)

/-- R85, R143: the bytes of JPI. -/
theorem encode_jpi (test : JumpTest) (c : Cond) (b2 : Byte) :
    encode (.jpi test c b2) = [BitVec.ofNat 8 (64 * test.digit.toNat + 8 * 5 + c.digit.toNat), b2] :=
  congrArg (fun b1 => [b1, b2]) (octalByte_eq_ofNat test.digit 5 c.digit)

/-- R142: JPD branches to its second byte. -/
theorem exec_jpd (test : JumpTest) (c : Cond) (b2 : Byte) (s : State) :
    exec (.jpd test c b2) s = .next (s.branch (s.jumpTaken test c) b2) := rfl

/-- R143: JPI branches to the byte its second byte points at. -/
theorem exec_jpi (test : JumpTest) (c : Cond) (b2 : Byte) (s : State) :
    exec (.jpi test c b2) s = .next (s.branch (s.jumpTaken test c) (s.read b2)) := rfl

/-- Settles O31: both jumps are one branch; they differ in the target. -/
theorem jumpsGoToTheTarget : Obligations.JumpsGoToTheTarget := by
  intro test c b2 s
  exact ⟨encode_jpd test c b2, encode_jpi test c b2, completes_of_exec_eq_branch (exec_jpd test c b2 s),
    completes_of_exec_eq_branch (exec_jpi test c b2 s)⟩

end Sys2Proof.Machine
end

section
/-! PROOFS. The family of 44_skip_set.md: the bytes of the bit instructions, and the meanings of SKP 0 and SKP 1 as
branches to P + 4. -/

namespace Sys2Proof.Machine

/-- R86: the bytes of a bit instruction, the bit position as its second digit. -/
theorem encodeBit_eq_ofNat (d1 : BitVec 2) (k : Fin 8) (b2 : Byte) :
    encodeBit d1 k b2 = [BitVec.ofNat 8 (64 * d1.toNat + 2 + 8 * k.val), b2] := by
  have h : octalByte d1 (BitVec.ofFin k) 2 = BitVec.ofNat 8 (64 * d1.toNat + 2 + 8 * k.val) := by
    rw [octalByte_eq_ofNat, Nat.add_right_comm]
    rfl
  rw [encodeBit, h]

/-- R86, R151: the bytes of SKP 0. -/
theorem encode_skp0 (k : Fin 8) (b2 : Byte) :
    encode (.skp0 k b2) = [BitVec.ofNat 8 (0o202 + 8 * k.val), b2] := encodeBit_eq_ofNat 2 k b2

/-- R86, R152: the bytes of SKP 1. -/
theorem encode_skp1 (k : Fin 8) (b2 : Byte) :
    encode (.skp1 k b2) = [BitVec.ofNat 8 (0o302 + 8 * k.val), b2] := encodeBit_eq_ofNat 3 k b2

/-- R151: SKP 0 branches over the next two bytes where the bit is Zero. -/
theorem exec_skp0 (k : Fin 8) (b2 : Byte) (s : State) :
    exec (.skp0 k b2) s = .next (s.branch (!(s.read b2).getLsbD k.val) (s.pc + 4)) := rfl

/-- R152: SKP 1 branches over the next two bytes where the bit is One. -/
theorem exec_skp1 (k : Fin 8) (b2 : Byte) (s : State) :
    exec (.skp1 k b2) s = .next (s.branch ((s.read b2).getLsbD k.val) (s.pc + 4)) := rfl

/-- Settles O34: both skips are one branch to P + 4; SKP 0 takes it where the negated bit is One. -/
theorem skipsTestOneBit : Obligations.SkipsTestOneBit := by
  intro k b2 s
  refine ⟨encode_skp0 k b2, encode_skp1 k b2, ?skp0, completes_of_exec_eq_branch (exec_skp1 k b2 s)⟩
  case skp0 =>
    obtain ⟨t, hExec, hpc, frame⟩ := completes_of_exec_eq_branch (exec_skp0 k b2 s)
    have zero : (!(s.read b2).getLsbD k.val) = true ↔ (s.read b2).getLsbD k.val = false := by
      rw [Bool.not_eq_true']
    exact ⟨t, hExec, hpc.trans (if_congr zero rfl rfl), frame⟩

end Sys2Proof.Machine
end

section
/-! PROOFS. The family of 45_shift_rotate.md: the bytes of the shifts and rotates, what all four of them leave, and the
value each writes. -/

namespace Sys2Proof.Machine

/-- R87, R160: the place code is the count modulo 4, four places being written 0. -/
theorem places_code_toNat (n : Places) : n.code.toNat = placeCount n % 4 := by cases n <;> rfl

/-- R160: every count leaves at least one bit of the byte in place. -/
theorem placeCount_lt_eight (n : Places) : placeCount n < 8 := by cases n <;> decide

/-- R87: the byte of a shift or rotate, its second digit the register bit above the place code. -/
theorem encodeShift_eq_ofNat (d1 : BitVec 2) (g : ShiftReg) (n : Places) :
    encodeShift d1 g n = [BitVec.ofNat 8 (64 * d1.toNat + 1 + 8 * (4 * g.bit.toNat + placeCount n % 4))] := by
  have field : (g.bit ++ n.code).toNat = 4 * g.bit.toNat + placeCount n % 4 := by
    rw [BitVec.toNat_append, ← Nat.shiftLeft_add_eq_or_of_lt n.code.isLt, Nat.shiftLeft_eq, places_code_toNat,
      Nat.mul_comm]
  have h : octalByte d1 (g.bit ++ n.code) 1 =
      BitVec.ofNat 8 (64 * d1.toNat + 1 + 8 * (4 * g.bit.toNat + placeCount n % 4)) := by
    rw [octalByte_eq_ofNat, field, Nat.add_right_comm]
    rfl
  rw [encodeShift, h]

/-- R87, R161: the byte of SFTL. -/
theorem encode_sftl (g : ShiftReg) (n : Places) :
    encode (.sftl g n) = [BitVec.ofNat 8 (0o201 + 8 * (4 * g.bit.toNat + placeCount n % 4))] :=
  encodeShift_eq_ofNat 2 g n

/-- R87, R162: the byte of SFTR. -/
theorem encode_sftr (g : ShiftReg) (n : Places) :
    encode (.sftr g n) = [BitVec.ofNat 8 (0o001 + 8 * (4 * g.bit.toNat + placeCount n % 4))] :=
  encodeShift_eq_ofNat 0 g n

/-- R87, R163: the byte of ROTL. -/
theorem encode_rotl (g : ShiftReg) (n : Places) :
    encode (.rotl g n) = [BitVec.ofNat 8 (0o301 + 8 * (4 * g.bit.toNat + placeCount n % 4))] :=
  encodeShift_eq_ofNat 3 g n

/-- R87, R164: the byte of ROTR. -/
theorem encode_rotr (g : ShiftReg) (n : Places) :
    encode (.rotr g n) = [BitVec.ofNat 8 (0o101 + 8 * (4 * g.bit.toNat + placeCount n % 4))] :=
  encodeShift_eq_ofNat 1 g n

/-- R161: SFTL shifts its register left. -/
theorem exec_sftl (g : ShiftReg) (n : Places) (s : State) :
    exec (.sftl g n) s = .next (s.shiftReg g (shiftLeft · n)) := rfl

/-- R162: SFTR shifts its register right. -/
theorem exec_sftr (g : ShiftReg) (n : Places) (s : State) :
    exec (.sftr g n) s = .next (s.shiftReg g (shiftRight · n)) := rfl

/-- R163: ROTL rotates its register left. -/
theorem exec_rotl (g : ShiftReg) (n : Places) (s : State) :
    exec (.rotl g n) s = .next (s.shiftReg g (rotateLeft · n)) := rfl

/-- R164: ROTR rotates its register right. -/
theorem exec_rotr (g : ShiftReg) (n : Places) (s : State) :
    exec (.rotr g n) s = .next (s.shiftReg g (rotateRight · n)) := rfl

/-- R160: what the shifts and rotates have in common. An instruction whose meaning moves the bits of its register by `f`
completes with that value in the register, P + 1, and nothing else changed. -/
theorem completes_of_exec_eq_shiftReg {i : Instr} {s : State} {g : ShiftReg} {f : Byte → Byte}
    (h : exec i s = .next (s.shiftReg g f)) :
    ∃ t, exec i s = .next t ∧ t.read (shiftRegAddr g) = f (s.read (shiftRegAddr g)) ∧
      t.pc = s.pc + 1 ∧ UnchangedExcept s t [shiftRegAddr g, addrP] ∧ SameBesideMemory s t :=
  have hg : shiftRegAddr g ≠ addrP := shiftRegAddr_ne_addrP g
  ⟨_, h, State.read_advance_write_same s _ _ 1 hg, State.pc_advance_write s _ _ 1 hg,
    State.advance_write_unchangedExcept s _ _ 1 hg, State.shiftReg_same s g f⟩

/-- R161: a shift left multiplies by two to the places, modulo 256. -/
theorem unsigned_shiftLeft (v : Byte) (n : Places) :
    (shiftLeft v n).unsigned = v.unsigned * 2 ^ placeCount n % 256 := by
  rw [shiftLeft, Byte.unsigned, BitVec.toNat_shiftLeft, Nat.shiftLeft_eq]

/-- R163: the bits that leave on the left come in on the right. -/
theorem rotateLeft_eq_or (v : Byte) (n : Places) :
    rotateLeft v n = v <<< placeCount n ||| v >>> (8 - placeCount n) := by
  rw [rotateLeft, BitVec.rotateLeft_def, Nat.mod_eq_of_lt (placeCount_lt_eight n)]

/-- R164: the bits that leave on the right come in on the left. -/
theorem rotateRight_eq_or (v : Byte) (n : Places) :
    rotateRight v n = v >>> placeCount n ||| v <<< (8 - placeCount n) := by
  rw [rotateRight, BitVec.rotateRight_def, Nat.mod_eq_of_lt (placeCount_lt_eight n)]

/-- Settles O36: the three share the write to the register and the frame; they differ in the value. -/
theorem leftShiftAndRotatesWriteRegister : Obligations.LeftShiftAndRotatesWriteRegister := by
  intro g n s v places field
  refine ⟨encode_sftl g n, encode_rotl g n, encode_rotr g n, ?sftl, ?rotl, ?rotr⟩
  case sftl =>
    obtain ⟨t, hExec, hReg, frame⟩ := completes_of_exec_eq_shiftReg (exec_sftl g n s)
    exact ⟨t, hExec, hReg ▸ unsigned_shiftLeft v n, frame⟩
  case rotl => exact rotateLeft_eq_or v n ▸ completes_of_exec_eq_shiftReg (exec_rotl g n s)
  case rotr => exact rotateRight_eq_or v n ▸ completes_of_exec_eq_shiftReg (exec_rotr g n s)

/-- Where the sign bit is set, an arithmetic shift right sets the vacated bits. -/
theorem sshiftRight_eq_or_of_msb_true {w : Nat} (v : BitVec w) (k : Nat) (hv : v.msb = true) :
    v.sshiftRight k = v >>> k ||| BitVec.allOnes w <<< (w - k) := by
  refine BitVec.eq_of_getLsbD_eq fun i hi => ?_
  rw [BitVec.getLsbD_sshiftRight, BitVec.getLsbD_or, BitVec.getLsbD_ushiftRight, BitVec.getLsbD_shiftLeft,
    BitVec.getLsbD_allOnes, hv]
  by_cases kept : k + i < w
  · have below : i < w - k := by omega
    simp [kept, below, hi]
  · have vacated : ¬ i < w - k := by omega
    have inWidth : i - (w - k) < w := by omega
    simp [kept, vacated, inWidth, hi]

/-- R162: the vacated places take the sign bit. -/
theorem shiftRight_eq_ite (v : Byte) (n : Places) :
    shiftRight v n =
      if v.getLsbD 7 then v >>> placeCount n ||| (0o377 : Byte) <<< (8 - placeCount n) else v >>> placeCount n := by
  have sign : v.getLsbD 7 = v.msb := (BitVec.msb_eq_getLsbD_last v).symm
  rw [shiftRight, sign]
  split
  case isTrue negative => exact sshiftRight_eq_or_of_msb_true v _ negative
  case isFalse notNegative => exact BitVec.sshiftRight_eq_of_msb_false (Bool.eq_false_iff.mpr notNegative)

/-- R162: the signed value is divided by two to the places and rounded down. -/
theorem signed_shiftRight (v : Byte) (n : Places) : (shiftRight v n).signed = v.signed / 2 ^ placeCount n := by
  rw [shiftRight, Byte.signed, BitVec.toInt_sshiftRight, Int.shiftRight_eq_div_pow, Nat.cast_pow, Nat.cast_ofNat]

/-- Settles O37: the one value SFTR writes, read bit by bit and as a signed number. -/
theorem rightShiftIsFloorDivision : Obligations.RightShiftIsFloorDivision := by
  intro g n s v places
  obtain ⟨t, hExec, hReg, frame⟩ := completes_of_exec_eq_shiftReg (exec_sftr g n s)
  exact ⟨encode_sftr g n, t, hExec, hReg.trans (shiftRight_eq_ite v n), hReg ▸ signed_shiftRight v n, frame⟩

end Sys2Proof.Machine
end

section
/-! PROOFS. The family of 46_noop_halt.md: the bytes and the meanings of NOOP and HALT, what an advance of P alone leaves,
and Start in the Halt state. -/

namespace Sys2Proof.Machine

/-- R88: the byte of format MISC, the don't-care bits between b7 and the digit 0. -/
theorem encodeMisc_eq_ofNat (b7 : BitVec 1) (x : BitVec 4) :
    encodeMisc b7 x = [BitVec.ofNat 8 (128 * b7.toNat + 8 * x.toNat)] := by
  have field : (b7 ++ x).toNat = 16 * b7.toNat + x.toNat := by
    rw [BitVec.toNat_append, ← Nat.shiftLeft_add_eq_or_of_lt x.isLt, Nat.shiftLeft_eq, Nat.mul_comm]
  have digit : (0 : BitVec 3).toNat = 0 := rfl
  have value : (b7 ++ x ++ (0 : BitVec 3)).toNat = 128 * b7.toNat + 8 * x.toNat := by
    rw [BitVec.toNat_append, ← Nat.shiftLeft_add_eq_or_of_lt (0 : BitVec 3).isLt, Nat.shiftLeft_eq, field,
      digit]
    omega
  rw [encodeMisc, ← value, BitVec.ofNat_toNat, BitVec.setWidth_eq]

/-- R88, R171: the byte of NOOP. -/
theorem encode_noop (x : BitVec 4) : encode (.noop x) = [BitVec.ofNat 8 (0o200 + 8 * x.toNat)] :=
  encodeMisc_eq_ofNat 1 x

/-- R88, R172: the byte of HALT. -/
theorem encode_halt (x : BitVec 4) : encode (.halt x) = [BitVec.ofNat 8 (8 * x.toNat)] := by
  have zero : 128 * (0 : BitVec 1).toNat + 8 * x.toNat = 8 * x.toNat := Nat.zero_add _
  rw [encode, encodeMisc_eq_ofNat, zero]

/-- R171: NOOP advances P by one. -/
theorem exec_noop (x : BitVec 4) (s : State) : exec (.noop x) s = .next (s.advance 1) := rfl

/-- R172: HALT advances P by one, then the Run state ends. -/
theorem exec_halt (x : BitVec 4) (s : State) : exec (.halt x) s = .next (s.advance 1).enterHalt := rfl

/-- R111: with no write before it, the advance counts from p. -/
theorem State.pc_advance (s : State) (n : Byte) : (s.advance n).pc = s.pc + n :=
  (State.read_advance s addrP n).trans (if_pos rfl)

/-- R111: the advance writes P and no other byte. -/
theorem State.advance_unchangedExcept (s : State) (n : Byte) : UnchangedExcept s (s.advance n) [addrP] := by
  intro b hb
  rw [State.read_advance, if_neg (mt List.mem_singleton.mpr hb)]

/-- Settles O40: NOOP is the advance of P and nothing else. -/
theorem noopAdvancesByOne : Obligations.NoopAdvancesByOne := by
  intro x s
  exact ⟨encode_noop x, _, exec_noop x s, State.pc_advance s 1, State.advance_unchangedExcept s 1,
    State.advance_same s 1⟩

/-- R210, R211: where no Control Lamp is lit, the Data Lamps show location 0o200. -/
theorem State.dataLamps_of_sel_none (s : State) (h : s.sel = .none) : s.dataLamps = s.read addrOut := by
  rw [State.dataLamps, h]

/-- R225: with power on and in the Halt state the operator's turn is a press of the Halt rows. -/
theorem operatorTurn_of_halt (e : ConsoleEvent) (s : State) (hPower : s.power = .on) (hRun : s.run = .halt) :
    operatorTurn e s = pressInHalt e s := by
  simp only [operatorTurn, hPower, hRun]

/-- R220: Start in the Halt state enters the Run state. -/
theorem step_start_of_halt (s : State) (rest : List Turn) (hPower : s.power = .on) (hRun : s.run = .halt)
    (hSchedule : s.schedule = .operator .start :: rest) : step s = .next (s.withSchedule rest).enterRun := by
  rw [step_of_operator s .start rest hSchedule, operatorTurn_of_halt .start (s.withSchedule rest) hPower hRun]
  rfl

/-- Settles O41: HALT is the advance of P and the end of the Run state, which touches no byte; Start then leaves P where
the advance put it. -/
theorem haltEndsTheRunState : Obligations.HaltEndsTheRunState := by
  intro x s
  have hpc : (s.advance 1).enterHalt.pc = s.pc + 1 := State.pc_advance s 1
  have frame : UnchangedExcept s (s.advance 1).enterHalt [addrP] := State.advance_unchangedExcept s 1
  refine ⟨encode_halt x, _, exec_halt x s, hpc, rfl, rfl, ?lamps, frame, rfl, ?circuits, ?start⟩
  case lamps =>
    have beside : addrOut ∉ [addrP] := by decide
    exact (State.dataLamps_of_sel_none _ rfl).trans (frame addrOut beside)
  case circuits =>
    intro initialised
    rw [State.enterHalt_circuits, State.advance_circuits, initialised, Circuits.initialised_afterHalt]
  case start =>
    intro rest hPower hSchedule
    exact ⟨_, step_start_of_halt _ rest hPower rfl hSchedule, rfl, hpc⟩

end Sys2Proof.Machine
end

section
/-! PROOFS. The family of 47_register_idioms.md: what ADD and SUB leave, the Carry and Overflow of a byte added to
itself, and a write into P before the advance. -/

namespace Sys2Proof.Machine

/-- Settles O19: the bytes by evaluation; Indirect mode through a register is one case of LOAD. -/
theorem tableLookUp : Obligations.TableLookUp := by
  refine ⟨rfl, fun r q s => ?_⟩
  obtain ⟨_, t, hExec, hReg, hPc, _, _⟩ := loadCopiesOperandToRegister r .indirect (regAddr q) s
  exact ⟨t, hExec, hReg, hPc⟩

/-- R111, R183: a write into P, then the advance: P becomes the value written plus n, every other byte stays. -/
theorem State.read_advance_write_addrP (s : State) (v n b : Byte) :
    ((s.write addrP v).advance n).read b = if b = addrP then v + n else s.read b := by
  rw [State.read_advance, State.pc_write, if_pos rfl, State.read_write]
  split <;> rfl

/-- R124: STORE writes the register to the effective address, then advances P by two. -/
theorem exec_store (r : Reg) (m : Mode) (b2 : Byte) (s : State) :
    exec (.store r m b2) s =
      .next ((s.write (s.effectiveAddress m b2) (s.read (regAddr r))).advance 2) := rfl

/-- Settles O25: STORE counts its advance from the number it put into P; JPI is a branch, which is always taken and has
no advance. -/
theorem storeIntoPIsComputedJump : Obligations.StoreIntoPIsComputedJump := by
  refine ⟨rfl, fun r c s => ⟨⟨_, exec_store r .memory addrP s, ?pc, ?frame, rfl⟩,
    completes_of_exec_eq_branch (exec_jpi .unconditional c (regAddr r) s)⟩⟩
  case pc => exact (State.read_advance_write_addrP s _ 2 addrP).trans (if_pos rfl)
  case frame =>
    intro b hb
    exact (State.read_advance_write_addrP s _ 2 b).trans (if_neg (mt List.mem_singleton.mpr hb))

/-- R59: the writes of ADD and SUB in their order, result and flag byte beside P, then the advance. -/
theorem State.read_advance_write_write (s : State) (a w f u n b : Byte) (ha : a ≠ addrP) (hf : f ≠ addrP) :
    (((s.write a w).write f u).advance n).read b =
      if b = addrP then s.pc + n else if b = f then u else if b = a then w else s.read b := by
  rw [State.read_advance_write _ f u n b hf, State.pc_write, if_neg ha.symm, State.read_write]

/-- R121, R122: what ADD and SUB have in common. An instruction whose meaning writes a result to its register, then the
register's flag byte, completes with both in place, P + 2, and nothing else changed. -/
theorem completes_of_exec_eq_write_flags {i : Instr} {s : State} {r : Reg} {w u : Byte}
    (h : exec i s = .next (((s.write (regAddr r) w).write (flagAddr r) u).advance 2)) :
    ∃ t, exec i s = .next t ∧ t.read (regAddr r) = w ∧ t.read (flagAddr r) = u ∧
      t.pc = s.pc + 2 ∧ UnchangedExcept s t [regAddr r, flagAddr r, addrP] ∧ SameBesideMemory s t := by
  have hr : regAddr r ≠ addrP := regAddr_ne_addrP r
  have hf : flagAddr r ≠ addrP := flagAddr_ne_addrP r
  have read (b : Byte) := State.read_advance_write_write s (regAddr r) w (flagAddr r) u 2 b hr hf
  refine ⟨_, h, ?register, ?flags, (read addrP).trans (if_pos rfl), ?frame, rfl⟩
  case register => rw [read, if_neg hr, if_neg (regAddr_ne_flagAddr r r), if_pos rfl]
  case flags => rw [read, if_neg hf, if_pos rfl]
  case frame =>
    intro b hb
    obtain ⟨hbr, hbf, hbP⟩ : b ≠ regAddr r ∧ b ≠ flagAddr r ∧ b ≠ addrP := by simpa using hb
    rw [read, if_neg hbP, if_neg hbf, if_neg hbr]

/-- R121: ADD writes the sum to the register and its flags to the register's flag byte, then advances P by two. -/
theorem exec_add (r : Reg) (m : Mode) (b2 : Byte) (s : State) :
    exec (.add r m b2) s =
      .next (((s.write (regAddr r) (s.read (regAddr r) + s.read (s.effectiveAddress m b2))).write (flagAddr r)
        (addFlags (s.read (regAddr r)) (s.read (s.effectiveAddress m b2)))).advance 2) := rfl

/-- R26: b1 of a flag byte is the Carry. -/
theorem flagByte_getLsbD_one (ca ov : Bool) : (flagByte ca ov).getLsbD 1 = ca := by
  cases ca <;> cases ov <;> rfl

/-- R26: b0 of a flag byte is the Overflow. -/
theorem flagByte_getLsbD_zero (ca ov : Bool) : (flagByte ca ov).getLsbD 0 = ov := by
  cases ca <;> cases ov <;> rfl

/-- R120: the Carry of a sum is set exactly when the true unsigned sum is above 255; in the 9 bits it is formed in, the
sum of two bytes is the true one. -/
theorem addCarry_iff (a v : Byte) : addCarry a v = true ↔ 255 < a.unsigned + v.unsigned := by
  have extended (x : Byte) : (x.zeroExtend 9).toNat = x.toNat := BitVec.toNat_setWidth_of_le (by decide)
  have fits : (a.zeroExtend 9).toNat + (v.zeroExtend 9).toNat < 2 ^ 9 := by
    rw [extended, extended]
    omega
  rw [addCarry, BitVec.toNat_add_of_lt fits, extended, extended, decide_eq_true_iff]
  exact Nat.succ_le_iff

/-- R120: the Overflow of a sum is set exactly when the true signed sum lies outside -128 to 127. -/
theorem addOverflow_iff (a v : Byte) :
    addOverflow a v = true ↔ a.signed + v.signed < -128 ∨ 127 < a.signed + v.signed := by
  have signedOverflow : addOverflow a v = BitVec.saddOverflow a v := (BitVec.saddOverflow_eq a v).symm
  rw [signedOverflow, BitVec.saddOverflow, Bool.or_eq_true, decide_eq_true_iff, decide_eq_true_iff]
  simp only [Byte.signed]
  omega

/-- R181: a byte added to itself is shifted left by one place. -/
theorem add_self_eq_shiftLeft_one (v : Byte) : v + v = shiftLeft v .one :=
  BitVec.mul_two.symm.trans (BitVec.mul_twoPow_eq_shiftLeft v 1)

/-- R181: the Carry of a byte added to itself is its old b7, the bit that leaves. -/
theorem addCarry_self (v : Byte) : addCarry v v = v.getLsbD 7 := by
  have b7 : v.getLsbD 7 = true ↔ 128 ≤ v.unsigned := by
    rw [← BitVec.msb_eq_getLsbD_last v, BitVec.msb_eq_decide, decide_eq_true_iff]
  rw [Bool.eq_iff_iff, addCarry_iff, b7]
  omega

/-- R181: the Overflow of a byte added to itself is set exactly when the number was above 63 or below -64. -/
theorem addOverflow_self_iff (v : Byte) : addOverflow v v = true ↔ 63 < v.signed ∨ v.signed < -64 := by
  rw [addOverflow_iff]
  omega

/-- R181: that is b7 different from b6, since b6 becomes the sign of the shifted byte. -/
theorem addOverflow_self (v : Byte) : addOverflow v v = (v.getLsbD 7 != v.getLsbD 6) := by
  have oldSign : v.msb = v.getLsbD 7 := BitVec.msb_eq_getLsbD_last v
  have newSign : (v + v).msb = v.getLsbD 6 := by
    rw [add_self_eq_shiftLeft_one, shiftLeft, BitVec.msb_shiftLeft]
    rfl
  rw [addOverflow, oldSign, newSign, beq_self_eq_true, Bool.true_and, bne_comm]

/-- Settles O26: in Memory mode through its own address the register is both operands of ADD; the sum is the shift, and
the two flags are those of a byte added to itself. -/
theorem addRegisterToItself : Obligations.AddRegisterToItself := by
  intro r s v
  obtain ⟨t, hExec, hReg, hFlags, _, _, _⟩ := completes_of_exec_eq_write_flags (exec_add r .memory (regAddr r) s)
  have carry : (t.read (flagAddr r)).getLsbD 1 = addCarry v v := hFlags ▸ flagByte_getLsbD_one _ _
  have overflow : (t.read (flagAddr r)).getLsbD 0 = addOverflow v v := hFlags ▸ flagByte_getLsbD_zero _ _
  exact ⟨t, hExec, hReg.trans (add_self_eq_shiftLeft_one v), carry.trans (addCarry_self v),
    overflow ▸ addOverflow_self_iff v, overflow.trans (addOverflow_self v)⟩

end Sys2Proof.Machine
end

section
/-! PROOFS. The family of 60_exceptions.md: a press as the step of a machine that is on, what Clear and Memory Store leave
unchanged, and the presses of a halted machine. -/

namespace Sys2Proof.Machine

/-- R225: with power on and in the Run state the operator's turn is a press of the Run rows. -/
theorem operatorTurn_of_run (e : ConsoleEvent) (s : State) (hPower : s.power = .on) (hRun : s.run = .run) :
    operatorTurn e s = pressInRun e s := by
  simp only [operatorTurn, hPower, hRun]

/-- R60, R225: the step of a running machine whose operator moves next. -/
theorem step_of_operator_run (s : State) (e : ConsoleEvent) (rest : List Turn) (hPower : s.power = .on)
    (hRun : s.run = .run) (hSchedule : s.schedule = .operator e :: rest) :
    step s = pressInRun e (s.withSchedule rest) :=
  (step_of_operator s e rest hSchedule).trans (operatorTurn_of_run e (s.withSchedule rest) hPower hRun)

/-- R60, R225: the step of a halted machine whose operator moves next. -/
theorem State.Halted.step_of_operator {s : State} {e : ConsoleEvent} {rest : List Turn} (hHalted : s.Halted)
    (hSchedule : s.schedule = .operator e :: rest) : step s = pressInHalt e (s.withSchedule rest) := by
  obtain ⟨hPower, hRun⟩ := hHalted
  exact (Machine.step_of_operator s e rest hSchedule).trans
    (operatorTurn_of_halt e (s.withSchedule rest) hPower hRun)

/-- R213: Clear in either state; only the lamps tell Run, which keeps their selection, from Halt, which lights Input. -/
theorem step_clear (s : State) (rest : List Turn) (hPower : s.power = .on)
    (hSchedule : s.schedule = .operator .clear :: rest) :
    step s = .next ((s.withSchedule rest).pressClear.light (if s.run = .halt then .input else s.sel)) := by
  cases hRun : s.run with
  | run => exact step_of_operator_run s .clear rest hPower hRun hSchedule
  | halt => exact State.Halted.step_of_operator ⟨hPower, hRun⟩ hSchedule

/-- R213: the frame of Clear. -/
theorem State.pressClear_unchangedExcept (s : State) : UnchangedExcept s s.pressClear [addrIn] := by
  intro b hb
  rw [State.read_pressClear, if_neg (mt List.mem_singleton.mpr hb)]

/-- R217: the frame of Memory Store. -/
theorem State.pressMemoryStore_unchangedExcept (s : State) : UnchangedExcept s s.pressMemoryStore [s.ar] := by
  intro b hb
  rw [State.read_pressMemoryStore, if_neg (mt List.mem_singleton.mpr hb)]

/-- R212: Data Pushbutton i leaves bit i of location 0o377 set, whatever it was. -/
theorem State.read_pressData_getLsbD_self (s : State) (i : Fin 8) :
    ((s.pressData i).read addrIn).getLsbD i.val = true := by
  have bit : ((1 : Byte) <<< i.val).getLsbD i.val = true := by simp
  rw [State.read_pressData, if_pos rfl, BitVec.getLsbD_or, bit, Bool.or_true]

/-- R210: where the Input lamp is lit, the Data Lamps show location 0o377. -/
theorem State.dataLamps_of_sel_input (s : State) (h : s.sel = .input) : s.dataLamps = s.read addrIn := by
  rw [State.dataLamps, h]

/-- R210: where the Address lamp is lit, the Data Lamps show the Address Register. -/
theorem State.dataLamps_of_sel_address (s : State) (h : s.sel = .address) : s.dataLamps = s.ar := by
  rw [State.dataLamps, h]

/-- R216: Memory Read lights the Memory lamp. -/
theorem State.pressMemoryRead_sel (s : State) : s.pressMemoryRead.sel = .memory := rfl

/-- R215: Address Display lights the Address lamp. -/
theorem State.pressAddressDisplay_sel (s : State) : s.pressAddressDisplay.sel = .address := rfl

/-- Settles O45: Clear is one write of location 0o377, and in the Halt state the Input lamp. -/
theorem clearErasesInput : Obligations.ClearErasesInput := by
  intro s rest hPower hSchedule
  have erased : (s.withSchedule rest).pressClear.read addrIn = 0 :=
    (State.read_pressClear _ addrIn).trans (if_pos rfl)
  exact ⟨_, step_clear s rest hPower hSchedule, erased,
    State.pressClear_unchangedExcept (s.withSchedule rest), rfl⟩

/-- Settles O46: neither press writes memory; Address Set loads the Address Register, Address Display lights its lamp. -/
theorem addressSetAndDisplay : Obligations.AddressSetAndDisplay := by
  intro s rest hHalted
  refine ⟨fun hSchedule => ?set, fun hSchedule => ⟨?display, ?lamps⟩⟩
  case set =>
    exact ⟨_, hHalted.step_of_operator hSchedule, rfl, State.pressAddressSet_mem _, rfl, rfl, rfl, rfl, rfl, rfl⟩
  case display => exact hHalted.step_of_operator hSchedule
  case lamps => exact State.dataLamps_of_sel_address _ (State.pressAddressDisplay_sel (s.withSchedule rest))

/-- Settles O48: Memory Store is one write at the Address Register, which then advances. -/
theorem memoryStoreWritesAndAdvances : Obligations.MemoryStoreWritesAndAdvances := by
  intro s rest hHalted hSchedule
  have stored : (s.withSchedule rest).pressMemoryStore.read s.ar = s.read addrIn :=
    (State.read_pressMemoryStore _ s.ar).trans (if_pos rfl)
  exact ⟨_, hHalted.step_of_operator hSchedule, stored, rfl,
    State.pressMemoryStore_unchangedExcept (s.withSchedule rest), rfl, rfl, rfl, rfl, rfl, rfl⟩

/-- Settles O52: a Data Pushbutton is seen through the Input lamp it lights; the other presses light their Control Lamp. -/
theorem lampTestsLightTheirLamps : Obligations.LampTestsLightTheirLamps := by
  intro s rest hHalted
  refine ⟨fun i hSchedule => ⟨_, hHalted.step_of_operator hSchedule, ?dataLamp⟩, fun e lamp hRow hSchedule => ?controlLamp⟩
  case dataLamp =>
    rw [State.dataLamps_of_sel_input _ (State.light_sel _ .input), State.light_read]
    exact State.read_pressData_getLsbD_self (s.withSchedule rest) i
  case controlLamp =>
    have pressed := hHalted.step_of_operator hSchedule
    obtain ⟨rfl, rfl⟩ | ⟨rfl, rfl⟩ | ⟨rfl, rfl⟩ | ⟨rfl, rfl⟩ := hRow
    · exact ⟨_, pressed, State.light_sel _ .input⟩
    · exact ⟨_, pressed, State.pressAddressDisplay_sel (s.withSchedule rest)⟩
    · exact ⟨_, pressed, State.pressMemoryRead_sel (s.withSchedule rest)⟩
    · exact ⟨_, pressed, State.enterRun_sel (s.withSchedule rest)⟩

end Sys2Proof.Machine
end

section
/-! PROOFS. The family of 30_encoding.md: the octal digits of a first byte, the fields they stand for, and the decoder
and the encoder as inverses of each other. -/

namespace Sys2Proof

/-! ### The three octal digits of a byte -/

/-- R81: a byte is made of its digits. -/
@[simp] theorem octalByte_digits (b : Byte) : octalByte (digit1 b) (digit2 b) (digit3 b) = b := by
  rw [octalByte, digit1, digit2, digit3, BitVec.extractLsb'_append_extractLsb'_eq_extractLsb' (by rfl),
    BitVec.extractLsb'_append_extractLsb'_eq_extractLsb' (by rfl)]
  exact BitVec.extractLsb'_eq_self

@[simp] theorem digit3_octalByte (d1 : BitVec 2) (d2 d3 : BitVec 3) : digit3 (octalByte d1 d2 d3) = d3 :=
  BitVec.extractLsb'_append_eq_right

@[simp] theorem digit2_octalByte (d1 : BitVec 2) (d2 d3 : BitVec 3) : digit2 (octalByte d1 d2 d3) = d2 :=
  (BitVec.extractLsb'_append_eq_of_le (by decide)).trans BitVec.extractLsb'_append_eq_right

@[simp] theorem digit1_octalByte (d1 : BitVec 2) (d2 d3 : BitVec 3) : digit1 (octalByte d1 d2 d3) = d1 :=
  (BitVec.extractLsb'_append_eq_of_le (by decide)).trans BitVec.extractLsb'_append_eq_left

theorem octalByte_eq_iff (d1 : BitVec 2) (d2 d3 : BitVec 3) (b : Byte) :
    octalByte d1 d2 d3 = b ↔ digit1 b = d1 ∧ digit2 b = d2 ∧ digit3 b = d3 := by
  constructor
  · rintro rfl
    simp
  · rintro ⟨rfl, rfl, rfl⟩
    exact octalByte_digits b

/-- R81: b5 is the most significant bit of the second digit. -/
theorem getLsbD_five_octalByte (d1 : BitVec 2) (d2 d3 : BitVec 3) :
    (octalByte d1 d2 d3).getLsbD 5 = decide (4 ≤ d2.toNat) := by
  rw [octalByte, BitVec.getLsbD_append, BitVec.getLsbD_append]
  exact (BitVec.msb_eq_getLsbD_last d2).symm.trans (BitVec.msb_eq_decide d2)

/-! ### The fields a digit stands for -/

@[simp] theorem Reg.ofDigit_digit (r : Reg) : Reg.ofDigit r.digit = some r := by cases r <;> rfl

theorem Reg.digit_of_ofDigit {d : BitVec 2} {r : Reg} (h : Reg.ofDigit d = some r) : r.digit = d := by
  revert h
  cases r <;> revert d <;> decide

theorem Reg.eq_three_of_ofDigit {d : BitVec 2} (h : Reg.ofDigit d = none) : d = 3 := by
  revert h d
  decide

@[simp] theorem JumpTest.ofDigit_digit (t : JumpTest) : JumpTest.ofDigit t.digit = t := by
  cases t with
  | reg r => cases r <;> rfl
  | unconditional => rfl

@[simp] theorem JumpTest.digit_ofDigit (d : BitVec 2) : (JumpTest.ofDigit d).digit = d := by
  revert d
  decide

@[simp] theorem Mode.ofDigit_digit (m : Mode) : Mode.ofDigit m.digit = m := by cases m <;> rfl

theorem Mode.digit_ofDigit {d : BitVec 3} (h : 3 ≤ d.toNat) : (Mode.ofDigit d).digit = d := by
  revert h d
  decide

theorem Mode.three_le_digit (m : Mode) : 3 ≤ m.digit.toNat := by cases m <;> decide

@[simp] theorem Cond.ofDigit_digit (c : Cond) : Cond.ofDigit c.digit = c := by cases c <;> rfl

theorem Cond.digit_ofDigit {d : BitVec 3} (h : 3 ≤ d.toNat) : (Cond.ofDigit d).digit = d := by
  revert h d
  decide

theorem Cond.three_le_digit (c : Cond) : 3 ≤ c.digit.toNat := by cases c <;> decide

/-! ### The classes of first bytes, by the third digit -/

theorem digit3_cases (b1 : Byte) :
    digit3 b1 = 0 ∨ digit3 b1 = 1 ∨ digit3 b1 = 2 ∨ 3 ≤ (digit3 b1).toNat := by
  generalize digit3 b1 = d3
  revert d3
  decide

theorem getLsbD_five (b1 : Byte) : b1.getLsbD 5 = decide (4 ≤ (digit2 b1).toNat) := by
  rw [← getLsbD_five_octalByte (digit1 b1) (digit2 b1) (digit3 b1), octalByte_digits]

theorem decodePair_misc (len : Noop31Length) {b1 : Byte} (b2 : Byte) (h : digit3 b1 = 0) :
    decodePair len b1 b2 = decodeMisc b1 := by rw [decodePair, h]; rfl

theorem decodePair_shift (len : Noop31Length) {b1 : Byte} (b2 : Byte) (h : digit3 b1 = 1) :
    decodePair len b1 b2 = decodeShift b1 := by rw [decodePair, h]; rfl

theorem decodePair_bit (len : Noop31Length) {b1 : Byte} (b2 : Byte) (h : digit3 b1 = 2) :
    decodePair len b1 b2 = decodeBit b1 b2 := by rw [decodePair, h]; rfl

/-- R84, R85: from the third digit 3 on, b5 tells the jumps from the instructions with an operand. -/
theorem decodePair_of_three_le (len : Noop31Length) {b1 : Byte} (b2 : Byte) (h : 3 ≤ (digit3 b1).toNat) :
    decodePair len b1 b2 = if 4 ≤ (digit2 b1).toNat then decodeJump b1 b2 else decodeOperand len b1 b2 := by
  rw [decodePair, getLsbD_five]
  split
  · omega
  · omega
  · omega
  · simp only [decide_eq_true_iff]

theorem decodePair_jump (len : Noop31Length) {b1 : Byte} (b2 : Byte) (h3 : 3 ≤ (digit3 b1).toNat)
    (h2 : 4 ≤ (digit2 b1).toNat) : decodePair len b1 b2 = decodeJump b1 b2 :=
  (decodePair_of_three_le len b2 h3).trans (if_pos h2)

theorem decodePair_operand (len : Noop31Length) {b1 : Byte} (b2 : Byte) (h3 : 3 ≤ (digit3 b1).toNat)
    (h2 : ¬ 4 ≤ (digit2 b1).toNat) : decodePair len b1 b2 = decodeOperand len b1 b2 :=
  (decodePair_of_three_le len b2 h3).trans (if_neg h2)

/-- R82, R88: the instructions without operands are one byte long. -/
theorem instrLength_of_le_one (len : Noop31Length) {b1 : Byte} (h : digit3 b1 = 0 ∨ digit3 b1 = 1) :
    instrLength len b1 = 1 := by
  obtain h | h := h <;> rw [instrLength, h] <;> rfl

theorem instrLength_of_bit (len : Noop31Length) {b1 : Byte} (h : digit3 b1 = 2) : instrLength len b1 = 2 := by
  rw [instrLength, h]; rfl

/-- R82: a third digit from 3 on has a second byte, but for the codes 0o313 to 0o317. -/
theorem instrLength_of_three_le (len : Noop31Length) {b1 : Byte} (h : 3 ≤ (digit3 b1).toNat) :
    instrLength len b1 = if digit1 b1 = 3 ∧ digit2 b1 = 1 then len.toNat else 2 := by
  rw [instrLength]
  split
  · omega
  · omega
  · omega
  · rfl

/-! ### One instruction of each class, by the digit that selects it -/

theorem twoBit_cases (d1 : BitVec 2) : d1 = 0 ∨ d1 = 1 ∨ d1 = 2 ∨ d1 = 3 := by
  revert d1
  decide

theorem threeBit_cases_of_four_le {d2 : BitVec 3} (h : 4 ≤ d2.toNat) : d2 = 4 ∨ d2 = 5 ∨ d2 = 6 ∨ d2 = 7 := by
  revert h d2
  decide

theorem threeBit_cases_of_lt_four {d2 : BitVec 3} (h : ¬ 4 ≤ d2.toNat) : d2 = 0 ∨ d2 = 1 ∨ d2 = 2 ∨ d2 = 3 := by
  revert h d2
  decide

/-- R87: the shift or rotate a first digit selects. -/
def selectShift (d1 : BitVec 2) (g : ShiftReg) (n : Places) : Instr :=
  match d1.toNat with
  | 0 => .sftr g n
  | 1 => .rotr g n
  | 2 => .sftl g n
  | _ => .rotl g n

theorem decodeShift_eq_select (b1 : Byte) :
    decodeShift b1 =
      selectShift (digit1 b1) (ShiftReg.ofBit (b1.getLsbD 5)) (Places.ofCode (b1.extractLsb' 3 2)) := rfl

theorem encode_selectShift (d1 : BitVec 2) (g : ShiftReg) (n : Places) :
    encode (selectShift d1 g n) = encodeShift d1 g n := by
  obtain rfl | rfl | rfl | rfl := twoBit_cases d1 <;> rfl

theorem selectShift_wellFormed (len : Noop31Length) (d1 : BitVec 2) (g : ShiftReg) (n : Places) :
    (selectShift d1 g n).wellFormed len = true := by
  obtain rfl | rfl | rfl | rfl := twoBit_cases d1 <;> rfl

/-- R86: the bit instruction a first digit selects. -/
def selectBit (d1 : BitVec 2) (k : Fin 8) (b2 : Byte) : Instr :=
  match d1.toNat with
  | 0 => .set0 k b2
  | 1 => .set1 k b2
  | 2 => .skp0 k b2
  | _ => .skp1 k b2

theorem decodeBit_eq_select (b1 b2 : Byte) : decodeBit b1 b2 = selectBit (digit1 b1) (digit2 b1).toFin b2 := rfl

theorem encode_selectBit (d1 : BitVec 2) (k : Fin 8) (b2 : Byte) :
    encode (selectBit d1 k b2) = encodeBit d1 k b2 := by
  obtain rfl | rfl | rfl | rfl := twoBit_cases d1 <;> rfl

theorem selectBit_wellFormed (len : Noop31Length) (d1 : BitVec 2) (k : Fin 8) (b2 : Byte) :
    (selectBit d1 k b2).wellFormed len = true := by
  obtain rfl | rfl | rfl | rfl := twoBit_cases d1 <;> rfl

/-- R85: the jump a second digit selects. -/
def selectJump (d2 : BitVec 3) (t : JumpTest) (c : Cond) (b2 : Byte) : Instr :=
  match d2.toNat with
  | 4 => .jpd t c b2
  | 5 => .jpi t c b2
  | 6 => .jmd t c b2
  | _ => .jmi t c b2

theorem decodeJump_eq_select (b1 b2 : Byte) :
    decodeJump b1 b2 = selectJump (digit2 b1) (JumpTest.ofDigit (digit1 b1)) (Cond.ofDigit (digit3 b1)) b2 := rfl

theorem encode_selectJump (d2 : BitVec 3) (t : JumpTest) (c : Cond) (b2 : Byte) (h : 4 ≤ d2.toNat) :
    encode (selectJump d2 t c b2) = [octalByte t.digit d2 c.digit, b2] := by
  obtain rfl | rfl | rfl | rfl := threeBit_cases_of_four_le h <;> rfl

theorem selectJump_wellFormed (len : Noop31Length) (d2 : BitVec 3) (t : JumpTest) (c : Cond) (b2 : Byte)
    (h : 4 ≤ d2.toNat) : (selectJump d2 t c b2).wellFormed len = true := by
  obtain rfl | rfl | rfl | rfl := threeBit_cases_of_four_le h <;> rfl

/-- R83, R84: the instruction with an operand that a second digit selects: one with a register where the first digit
designates one. -/
def selectOperand (len : Noop31Length) (d2 : BitVec 3) (r : Option Reg) (m : Mode) (b2 : Byte) : Instr :=
  match d2.toNat, r with
  | 0, some r => .add r m b2
  | 1, some r => .sub r m b2
  | 2, some r => .load r m b2
  | _, some r => .store r m b2
  | 0, none => .or m b2
  | 1, none => .noop31 m (noop31Second len b2)
  | 2, none => .and m b2
  | _, none => .lneg m b2

theorem decodeOperand_eq_select (len : Noop31Length) (b1 b2 : Byte) :
    decodeOperand len b1 b2 =
      selectOperand len (digit2 b1) (Reg.ofDigit (digit1 b1)) (Mode.ofDigit (digit3 b1)) b2 := rfl

theorem encode_selectOperand_reg (len : Noop31Length) (d2 : BitVec 3) (r : Reg) (m : Mode) (b2 : Byte)
    (h : ¬ 4 ≤ d2.toNat) : encode (selectOperand len d2 (some r) m b2) = [octalByte r.digit d2 m.digit, b2] := by
  obtain rfl | rfl | rfl | rfl := threeBit_cases_of_lt_four h <;> rfl

theorem encode_selectOperand_none (len : Noop31Length) (d2 : BitVec 3) (m : Mode) (b2 : Byte)
    (h : ¬ 4 ≤ d2.toNat) :
    encode (selectOperand len d2 none m b2) =
      octalByte 3 d2 m.digit :: if d2 = 1 then (noop31Second len b2).toList else [b2] := by
  obtain rfl | rfl | rfl | rfl := threeBit_cases_of_lt_four h <;> rfl

theorem selectOperand_wellFormed (len : Noop31Length) (d2 : BitVec 3) (r : Option Reg) (m : Mode) (b2 : Byte)
    (h : ¬ 4 ≤ d2.toNat) : (selectOperand len d2 r m b2).wellFormed len = true := by
  obtain rfl | rfl | rfl | rfl := threeBit_cases_of_lt_four h <;> cases r <;> cases len <;> rfl

/-! ### Decoding what was encoded -/

/-- R87: the place code is the low part of the second digit. -/
theorem extractLsb_places_octalByte (d1 : BitVec 2) (d2 d3 : BitVec 3) :
    (octalByte d1 d2 d3).extractLsb' 3 2 = d2.extractLsb' 0 2 :=
  (BitVec.extractLsb'_append_eq_of_le (by decide)).trans (BitVec.extractLsb'_append_eq_of_add_le (by decide))

/-- R88: b7 of format MISC is its first bit. -/
theorem getLsbD_seven_misc (b7 : BitVec 1) (x : BitVec 4) :
    (b7 ++ x ++ (0 : BitVec 3)).getLsbD 7 = decide (b7 = 1) := by
  revert b7 x
  decide

/-- R88: format MISC, written as it is encoded. -/
theorem decodePair_of_encodeMisc (len : Noop31Length) {b7 : BitVec 1} {x : BitVec 4} {b1 b2 : Byte}
    {rest : List Byte} (h : encodeMisc b7 x ++ rest = [b1, b2]) :
    decodePair len b1 b2 = if b7 = 1 then .noop x else .halt x := by
  obtain ⟨rfl, -⟩ : b7 ++ x ++ (0 : BitVec 3) = b1 ∧ rest = [b2] := by simpa [encodeMisc] using h
  have misc : digit3 (b7 ++ x ++ (0 : BitVec 3)) = 0 := BitVec.extractLsb'_append_eq_right
  have sign : (b7 ++ x ++ (0 : BitVec 3)).getLsbD 7 = decide (b7 = 1) := getLsbD_seven_misc b7 x
  have field : (b7 ++ x ++ (0 : BitVec 3)).extractLsb' 3 4 = x :=
    (BitVec.extractLsb'_append_eq_of_le (by decide)).trans BitVec.extractLsb'_append_eq_right
  simp only [decodePair_misc len b2 misc, decodeMisc, sign, field, decide_eq_true_iff]

/-- R87: format SH, written as it is encoded. -/
theorem decodePair_of_encodeShift (len : Noop31Length) {d1 : BitVec 2} {g : ShiftReg} {n : Places} {b1 b2 : Byte}
    {rest : List Byte} (h : encodeShift d1 g n ++ rest = [b1, b2]) : decodePair len b1 b2 = selectShift d1 g n := by
  obtain ⟨rfl, -⟩ : octalByte d1 (g.bit ++ n.code) 1 = b1 ∧ rest = [b2] := by simpa [encodeShift] using h
  have register : ShiftReg.ofBit (decide (4 ≤ (g.bit ++ n.code).toNat)) = g := by cases g <;> cases n <;> rfl
  have field : (octalByte d1 (g.bit ++ n.code) 1).extractLsb' 3 2 = n.code :=
    (extractLsb_places_octalByte _ _ _).trans BitVec.extractLsb'_append_eq_right
  have places : Places.ofCode n.code = n := by cases n <;> rfl
  rw [decodePair_shift len b2 (digit3_octalByte _ _ _), decodeShift_eq_select, digit1_octalByte,
    getLsbD_five_octalByte, register, field, places]

/-- R86: format BIT, written as it is encoded. -/
theorem decodePair_of_encodeBit (len : Noop31Length) {d1 : BitVec 2} {k : Fin 8} {v b1 b2 : Byte} {rest : List Byte}
    (h : encodeBit d1 k v ++ rest = [b1, b2]) : decodePair len b1 b2 = selectBit d1 k v := by
  obtain ⟨rfl, rfl, -⟩ : octalByte d1 (BitVec.ofFin k) 2 = b1 ∧ v = b2 ∧ rest = [] := by
    simpa [encodeBit] using h
  rw [decodePair_bit len v (digit3_octalByte _ _ _), decodeBit_eq_select, digit1_octalByte, digit2_octalByte]

/-- R85: format J, written as it is encoded. -/
theorem decodePair_of_encodeJump (len : Noop31Length) {d2 : BitVec 3} {t : JumpTest} {c : Cond} {v b1 b2 : Byte}
    {rest : List Byte} (h2 : 4 ≤ d2.toNat) (h : [octalByte t.digit d2 c.digit, v] ++ rest = [b1, b2]) :
    decodePair len b1 b2 = selectJump d2 t c v := by
  obtain ⟨rfl, rfl, -⟩ : octalByte t.digit d2 c.digit = b1 ∧ v = b2 ∧ rest = [] := by simpa using h
  rw [decodePair_jump len v (by simp [Cond.three_le_digit]) (by simpa using h2), decodeJump_eq_select]
  simp

/-- R83, R84: formats RM and AM, written as they are encoded. -/
theorem decodePair_octalByte_operand (len : Noop31Length) (d1 : BitVec 2) {d2 : BitVec 3} (m : Mode) (b2 : Byte)
    (h2 : ¬ 4 ≤ d2.toNat) :
    decodePair len (octalByte d1 d2 m.digit) b2 = selectOperand len d2 (Reg.ofDigit d1) m b2 := by
  rw [decodePair_operand len b2 (by simp [Mode.three_le_digit]) (by simpa using h2), decodeOperand_eq_select]
  simp

theorem decodePair_of_encodeOperand (len : Noop31Length) {d1 : BitVec 2} {d2 : BitVec 3} {m : Mode} {v b1 b2 : Byte}
    {r : Option Reg} {rest : List Byte} (hr : Reg.ofDigit d1 = r) (h2 : ¬ 4 ≤ d2.toNat)
    (h : [octalByte d1 d2 m.digit, v] ++ rest = [b1, b2]) : decodePair len b1 b2 = selectOperand len d2 r m v := by
  obtain ⟨rfl, rfl, -⟩ : octalByte d1 d2 m.digit = b1 ∧ v = b2 ∧ rest = [] := by simpa using h
  rw [decodePair_octalByte_operand len d1 m v h2, hr]

/-- R173: where the second byte stands in front of what follows, it is the one that is read. -/
theorem noop31Second_of_wellFormed {len : Noop31Length} {second : Option Byte} {b2 : Byte} {rest : List Byte}
    (hi : noop31WellFormed len second = true) (h : second.toList ++ rest = [b2]) : noop31Second len b2 = second := by
  cases len with
  | one => exact (Option.isNone_iff_eq_none.mp hi).symm
  | two =>
    obtain ⟨v, rfl⟩ := Option.isSome_iff_exists.mp hi
    obtain ⟨rfl, _⟩ := List.cons_eq_cons.mp h
    rfl

/-- R173: the codes 0o313 to 0o317 with as many bytes as `P_NOOP31_LEN` gives them. -/
theorem decodePair_of_encodeNoop31 (len : Noop31Length) {m : Mode} {second : Option Byte} {b1 b2 : Byte}
    {rest : List Byte} (hi : noop31WellFormed len second = true)
    (h : octalByte 3 1 m.digit :: second.toList ++ rest = [b1, b2]) : decodePair len b1 b2 = .noop31 m second := by
  obtain ⟨rfl, hSecond⟩ : octalByte 3 1 m.digit = b1 ∧ second.toList ++ rest = [b2] := by simpa using h
  rw [decodePair_octalByte_operand len 3 m b2 (by decide), ← noop31Second_of_wellFormed hi hSecond]
  rfl

/-- R90: two bytes that begin with the bytes of an instruction are read as that instruction. -/
theorem decodePair_of_encode (len : Noop31Length) (i : Instr) (b1 b2 : Byte) (rest : List Byte)
    (hi : i.wellFormed len = true) (h : encode i ++ rest = [b1, b2]) : decodePair len b1 b2 = i := by
  cases i with
  | halt x | noop x => exact decodePair_of_encodeMisc len h
  | sftr g n | rotr g n | sftl g n | rotl g n => exact decodePair_of_encodeShift len h
  | set0 k v | set1 k v | skp0 k v | skp1 k v => exact decodePair_of_encodeBit len h
  | jpd t c v | jpi t c v | jmd t c v | jmi t c v => exact decodePair_of_encodeJump len (by decide) h
  | add r m v | sub r m v | load r m v | store r m v =>
    exact decodePair_of_encodeOperand len (Reg.ofDigit_digit r) (by decide) h
  | or m v | and m v | lneg m v => exact decodePair_of_encodeOperand len (r := none) rfl (by decide) h
  | noop31 m second => exact decodePair_of_encodeNoop31 len hi h

/-- R82: the length rule, for every instruction. -/
theorem lengthRule (i : Instr) : Laws.LengthRule.Statement i := by
  cases i with
  | add r m v => exact Laws.LengthRule.add r m v
  | sub r m v => exact Laws.LengthRule.sub r m v
  | load r m v => exact Laws.LengthRule.load r m v
  | store r m v => exact Laws.LengthRule.store r m v
  | and m v => exact Laws.LengthRule.and m v
  | or m v => exact Laws.LengthRule.or m v
  | lneg m v => exact Laws.LengthRule.lneg m v
  | noop31 m second => exact Laws.LengthRule.noop31 m second
  | jpd t c v => exact Laws.LengthRule.jpd t c v
  | jpi t c v => exact Laws.LengthRule.jpi t c v
  | jmd t c v => exact Laws.LengthRule.jmd t c v
  | jmi t c v => exact Laws.LengthRule.jmi t c v
  | skp0 k v => exact Laws.LengthRule.skp0 k v
  | skp1 k v => exact Laws.LengthRule.skp1 k v
  | set0 k v => exact Laws.LengthRule.set0 k v
  | set1 k v => exact Laws.LengthRule.set1 k v
  | sftl g n => exact Laws.LengthRule.sftl g n
  | sftr g n => exact Laws.LengthRule.sftr g n
  | rotl g n => exact Laws.LengthRule.rotl g n
  | rotr g n => exact Laws.LengthRule.rotr g n
  | noop x => exact Laws.LengthRule.noop x
  | halt x => exact Laws.LengthRule.halt x

theorem instrLength_eq_one_or_two (len : Noop31Length) (b1 : Byte) :
    instrLength len b1 = 1 ∨ instrLength len b1 = 2 := by
  obtain h | h | h | h := digit3_cases b1
  · exact .inl (instrLength_of_le_one len (.inl h))
  · exact .inl (instrLength_of_le_one len (.inr h))
  · exact .inr (instrLength_of_bit len h)
  · rw [instrLength_of_three_le len h]
    split
    · cases len
      · exact .inl rfl
      · exact .inr rfl
    · exact .inr rfl

/-- R80: an instruction is encoded in one byte or in two, as its first byte says. -/
theorem encode_eq_one_or_two {len : Noop31Length} {i : Instr} (hi : i.wellFormed len = true) :
    (∃ b1, encode i = [b1] ∧ instrLength len b1 = 1) ∨ ∃ b1 b2, encode i = [b1, b2] ∧ instrLength len b1 = 2 := by
  obtain ⟨b1, tail, hEncode, hLength⟩ := lengthRule i len hi
  rw [hEncode, List.length_cons] at hLength
  obtain one | two := instrLength_eq_one_or_two len b1
  · obtain rfl : tail = [] := List.eq_nil_of_length_eq_zero (by omega)
    exact .inl ⟨b1, hEncode, one⟩
  · obtain ⟨b2, rfl⟩ : ∃ b2, tail = [b2] := List.length_eq_one_iff.mp (by omega)
    exact .inr ⟨b1, b2, hEncode, two⟩

theorem decode_of_length_one {len : Noop31Length} {b1 : Byte} (rest : List Byte) (h : instrLength len b1 = 1) :
    decode len (b1 :: rest) = .ok (decodePair len b1 0, rest) := by
  exact if_pos h

theorem decode_of_length_two {len : Noop31Length} {b1 : Byte} (b2 : Byte) (rest : List Byte)
    (h : instrLength len b1 = 2) : decode len (b1 :: b2 :: rest) = .ok (decodePair len b1 b2, rest) := by
  have notOne : instrLength len b1 ≠ 1 := by omega
  exact if_neg notOne

/-- Settles O1: the decoder takes as many bytes as the encoder wrote, and reads the pair they begin as the
instruction. -/
theorem decodeOfEncodeIsTheInstruction : Obligations.DecodeOfEncodeIsTheInstruction := by
  intro len i rest hi
  obtain ⟨b1, hEncode, one⟩ | ⟨b1, b2, hEncode, two⟩ := encode_eq_one_or_two hi
  · have read : decodePair len b1 0 = i := decodePair_of_encode len i b1 0 [0] hi (by rw [hEncode]; rfl)
    rw [hEncode, List.singleton_append, decode_of_length_one rest one, read]
  · have read : decodePair len b1 b2 = i := decodePair_of_encode len i b1 b2 [] hi (by rw [hEncode]; rfl)
    rw [hEncode, List.cons_append, List.singleton_append, decode_of_length_two b2 rest two, read]

/-! ### Encoding what was decoded -/

/-- R88: the bits of format MISC are all kept. -/
theorem encode_decodeMisc {b1 : Byte} (h : digit3 b1 = 0) : encode (decodeMisc b1) = [b1] := by
  revert h b1
  decide

/-- R87: the bits of format SH are all kept. -/
theorem encode_decodeShift {b1 : Byte} (h : digit3 b1 = 1) : encode (decodeShift b1) = [b1] := by
  have fields (d2 : BitVec 3) :
      (ShiftReg.ofBit (decide (4 ≤ d2.toNat))).bit ++ (Places.ofCode (d2.extractLsb' 0 2)).code = d2 := by
    revert d2
    decide
  have field : b1.extractLsb' 3 2 = (digit2 b1).extractLsb' 0 2 := by
    rw [← extractLsb_places_octalByte (digit1 b1) (digit2 b1) (digit3 b1), octalByte_digits]
  rw [decodeShift_eq_select, encode_selectShift, encodeShift, field, getLsbD_five, fields, ← h, octalByte_digits]

/-- R86: the bits of format BIT are all kept. -/
theorem encode_decodeBit {b1 : Byte} (b2 : Byte) (h : digit3 b1 = 2) : encode (decodeBit b1 b2) = [b1, b2] := by
  rw [decodeBit_eq_select, encode_selectBit, encodeBit, ← h]
  exact congrArg (fun b => [b, b2]) (octalByte_digits b1)

/-- R85: the bits of format J are all kept. -/
theorem encode_decodeJump {b1 : Byte} (b2 : Byte) (h3 : 3 ≤ (digit3 b1).toNat) (h2 : 4 ≤ (digit2 b1).toNat) :
    encode (decodeJump b1 b2) = [b1, b2] := by
  rw [decodeJump_eq_select, encode_selectJump _ _ _ _ h2, JumpTest.digit_ofDigit, Cond.digit_ofDigit h3,
    octalByte_digits]

/-- R83, R84: the bits of formats RM and AM are all kept; the codes 0o313 to 0o317 have the second byte only where they
are two bytes long. -/
theorem encode_decodeOperand (len : Noop31Length) {b1 : Byte} (b2 : Byte) (h3 : 3 ≤ (digit3 b1).toNat)
    (h2 : ¬ 4 ≤ (digit2 b1).toNat) :
    encode (decodeOperand len b1 b2) = [b1, b2].take (instrLength len b1) := by
  rw [decodeOperand_eq_select, instrLength_of_three_le len h3]
  cases hr : Reg.ofDigit (digit1 b1) with
  | some r =>
    have notThree : digit1 b1 ≠ 3 := by
      rw [← Reg.digit_of_ofDigit hr]
      cases r <;> decide
    rw [encode_selectOperand_reg len _ r _ b2 h2, Reg.digit_of_ofDigit hr, Mode.digit_ofDigit h3, octalByte_digits,
      if_neg (fun both => notThree both.1)]
    rfl
  | none =>
    have three : digit1 b1 = 3 := Reg.eq_three_of_ofDigit hr
    rw [encode_selectOperand_none len _ _ b2 h2, Mode.digit_ofDigit h3, ← three, octalByte_digits]
    by_cases noop31 : digit2 b1 = 1
    · rw [if_pos noop31, if_pos ⟨rfl, noop31⟩]
      cases len <;> rfl
    · rw [if_neg noop31, if_neg (fun both => noop31 both.2)]
      rfl

/-- R90: no bit of the bytes that were read is lost. -/
theorem encode_decodePair (len : Noop31Length) (b1 b2 : Byte) :
    encode (decodePair len b1 b2) = [b1, b2].take (instrLength len b1) := by
  obtain h | h | h | h := digit3_cases b1
  · rw [decodePair_misc len b2 h, encode_decodeMisc h, instrLength_of_le_one len (.inl h)]
    rfl
  · rw [decodePair_shift len b2 h, encode_decodeShift h, instrLength_of_le_one len (.inr h)]
    rfl
  · rw [decodePair_bit len b2 h, encode_decodeBit b2 h, instrLength_of_bit len h]
    rfl
  · by_cases h2 : 4 ≤ (digit2 b1).toNat
    · have notNoop31 : ¬ (digit1 b1 = 3 ∧ digit2 b1 = 1) := fun both => by
        rw [both.2] at h2
        exact absurd h2 (by decide)
      rw [decodePair_jump len b2 h h2, encode_decodeJump b2 h h2, instrLength_of_three_le len h, if_neg notNoop31]
      rfl
    · rw [decodePair_operand len b2 h h2, encode_decodeOperand len b2 h h2]

/-- R82, R173: the second byte of the codes 0o313 to 0o317 is read exactly where they have one. -/
theorem decodePair_wellFormed (len : Noop31Length) (b1 b2 : Byte) : (decodePair len b1 b2).wellFormed len = true := by
  obtain h | h | h | h := digit3_cases b1
  · rw [decodePair_misc len b2 h, decodeMisc]
    split <;> rfl
  · rw [decodePair_shift len b2 h, decodeShift_eq_select, selectShift_wellFormed]
  · rw [decodePair_bit len b2 h, decodeBit_eq_select, selectBit_wellFormed]
  · by_cases h2 : 4 ≤ (digit2 b1).toNat
    · rw [decodePair_jump len b2 h h2, decodeJump_eq_select, selectJump_wellFormed _ _ _ _ _ h2]
    · rw [decodePair_operand len b2 h h2, decodeOperand_eq_select, selectOperand_wellFormed _ _ _ _ _ h2]

/-- Settles O2: no bit is lost and no second byte is read that is not there. -/
theorem encodeOfDecodeIsTheBytes : Obligations.EncodeOfDecodeIsTheBytes :=
  fun len b1 b2 => ⟨encode_decodePair len b1 b2, decodePair_wellFormed len b1 b2⟩

/-- R90: decoding is undone by encoding; two bytes are read as an instruction exactly where they begin with its bytes.
-/
theorem decodePair_eq_iff (len : Noop31Length) (b1 b2 : Byte) (i : Instr) :
    decodePair len b1 b2 = i ↔ i.wellFormed len = true ∧ ∃ rest, encode i ++ rest = [b1, b2] := by
  constructor
  · rintro rfl
    exact ⟨decodePair_wellFormed len b1 b2, [b1, b2].drop (instrLength len b1), by
      rw [encode_decodePair, List.take_append_drop]⟩
  · rintro ⟨hi, rest, h⟩
    exact decodePair_of_encode len i b1 b2 rest hi h

/-- R57, R82: a one byte instruction does not depend on the byte after it. -/
theorem decodePair_of_length_one {len : Noop31Length} {b1 : Byte} (b2 b2' : Byte) (h : instrLength len b1 = 1) :
    decodePair len b1 b2 = decodePair len b1 b2' := by
  have bytes : encode (decodePair len b1 b2') = [b1] := by
    rw [encode_decodePair, h]
    rfl
  exact decodePair_of_encode len _ b1 b2 [b2] (decodePair_wellFormed len b1 b2') (by rw [bytes]; rfl)

theorem decode_singleton_eq_noSecondByte_iff (len : Noop31Length) (b1 : Byte) :
    decode len [b1] = .error .noSecondByte ↔ instrLength len b1 = 2 := by
  obtain one | two := instrLength_eq_one_or_two len b1
  · simp [decode_of_length_one [] one, one]
  · simp [decode, two]

/-- Settles O3: the length rule says how many bytes are taken, and one byte alone is too short exactly where it says
two. -/
theorem everyFirstByteDecodes : Obligations.EveryFirstByteDecodes := by
  intro len b1 b2 rest
  refine ⟨?_, decode_singleton_eq_noSecondByte_iff len b1, rfl⟩
  obtain one | two := instrLength_eq_one_or_two len b1
  · rw [decode_of_length_one _ one, decodePair_of_length_one 0 b2 one, one]
    rfl
  · rw [decode_of_length_two b2 rest two, two]
    rfl

/-! ### The opcode map by mask and match -/

/-- R90: masking acts on each digit. -/
theorem octalByte_and (d1 m1 : BitVec 2) (d2 m2 d3 m3 : BitVec 3) :
    octalByte d1 d2 d3 &&& octalByte m1 m2 m3 = octalByte (d1 &&& m1) (d2 &&& m2) (d3 &&& m3) := by
  rw [octalByte, octalByte, octalByte, BitVec.and_append, BitVec.and_append]

/-- R90: a masked first byte matches exactly where its masked digits do. -/
theorem and_octalByte_eq_iff (b1 : Byte) (m1 v1 : BitVec 2) (m2 v2 m3 v3 : BitVec 3) :
    b1 &&& octalByte m1 m2 m3 = octalByte v1 v2 v3 ↔
      digit1 b1 &&& m1 = v1 ∧ digit2 b1 &&& m2 = v2 ∧ digit3 b1 &&& m3 = v3 := by
  conv => lhs; rw [← octalByte_digits b1, octalByte_and, eq_comm, octalByte_eq_iff]
  simp

/-- Two bytes are read as an instruction whose second byte, if it has one, is theirs exactly where its first byte is. -/
theorem decodePair_eq_iff_first_byte {len : Noop31Length} {b b1 b2 : Byte} {i : Instr} {tail : List Byte}
    (hi : i.wellFormed len = true) (hEncode : encode i = b :: tail) (hTail : tail = [] ∨ tail = [b2]) :
    decodePair len b1 b2 = i ↔ b = b1 := by
  rw [decodePair_eq_iff, hEncode]
  obtain rfl | rfl := hTail <;> simp [hi]

theorem exists_encodeMisc_iff (b1 : Byte) (b7 : BitVec 1) :
    (∃ x : BitVec 4, b7 ++ x ++ (0 : BitVec 3) = b1) ↔ b1 &&& 0o207 = b7 ++ (0 : BitVec 7) := by
  constructor
  · rintro ⟨x, rfl⟩
    revert b7 x
    decide
  · intro h
    refine ⟨b1.extractLsb' 3 4, ?_⟩
    revert b7 b1
    decide

theorem and_0o307_eq_iff (b1 : Byte) (d1 : BitVec 2) (d3 : BitVec 3) :
    b1 &&& 0o307 = octalByte d1 0 d3 ↔ digit1 b1 = d1 ∧ digit3 b1 = d3 := by
  have mask : (0o307 : Byte) = octalByte (BitVec.allOnes 2) 0 (BitVec.allOnes 3) := rfl
  rw [mask, and_octalByte_eq_iff, BitVec.and_allOnes, BitVec.and_allOnes]
  simp

theorem and_0o070_eq_iff (b1 : Byte) (d2 : BitVec 3) : b1 &&& 0o070 = octalByte 0 d2 0 ↔ digit2 b1 = d2 := by
  have mask : (0o070 : Byte) = octalByte 0 (BitVec.allOnes 3) 0 := rfl
  rw [mask, and_octalByte_eq_iff, BitVec.and_allOnes]
  simp

theorem and_0o370_eq_iff (b1 : Byte) (d1 : BitVec 2) (d2 : BitVec 3) :
    b1 &&& 0o370 = octalByte d1 d2 0 ↔ digit1 b1 = d1 ∧ digit2 b1 = d2 := by
  have mask : (0o370 : Byte) = octalByte (BitVec.allOnes 2) (BitVec.allOnes 3) 0 := rfl
  rw [mask, and_octalByte_eq_iff, BitVec.and_allOnes, BitVec.and_allOnes]
  simp

theorem toNat_and_0o007 (b1 : Byte) : (b1 &&& 0o007).toNat = (digit3 b1).toNat := by
  have low (d3 : BitVec 3) : octalByte 0 0 d3 = BitVec.ofNat 8 d3.toNat := by simp [Machine.octalByte_eq_ofNat]
  have mask : b1 &&& 0o007 = octalByte 0 0 (digit3 b1) := by
    have h : (0o007 : Byte) = octalByte 0 0 (BitVec.allOnes 3) := rfl
    rw [h, and_octalByte_eq_iff, BitVec.and_allOnes]
    simp
  rw [mask, low, BitVec.toNat_ofNat, Nat.mod_eq_of_lt (by omega)]

/-- R88, R90: HALT and NOOP, by b7 and the third digit. -/
theorem match_iff_decodePair_misc (len : Noop31Length) (b1 b2 : Byte) (b7 : BitVec 1) :
    b1 &&& 0o207 = b7 ++ (0 : BitVec 7) ↔ ∃ x, decodePair len b1 b2 = if b7 = 1 then .noop x else .halt x := by
  rw [← exists_encodeMisc_iff]
  refine exists_congr fun x => (decodePair_eq_iff_first_byte ?_ ?_ (.inl rfl)).symm
  · split <;> rfl
  · split
    case isTrue one => rw [one]; rfl
    case isFalse zero => rw [show b7 = 0 by revert b7; decide]; rfl

/-- R87, R90: a shift or rotate, by the first digit and the third. -/
theorem match_iff_decodePair_shift (len : Noop31Length) (b1 b2 : Byte) (d1 : BitVec 2) :
    b1 &&& 0o307 = octalByte d1 0 1 ↔ ∃ g n, decodePair len b1 b2 = selectShift d1 g n := by
  rw [and_0o307_eq_iff]
  constructor
  · rintro ⟨rfl, h3⟩
    exact ⟨_, _, (decodePair_shift len b2 h3).trans (decodeShift_eq_select b1)⟩
  · rintro ⟨g, n, h⟩
    rw [decodePair_eq_iff_first_byte (selectShift_wellFormed len d1 g n) (encode_selectShift d1 g n) (.inl rfl),
      octalByte_eq_iff] at h
    obtain ⟨h1, _, h3⟩ := h
    exact ⟨h1, h3⟩

/-- R86, R90: a bit instruction, by the first digit and the third. -/
theorem match_iff_decodePair_bit (len : Noop31Length) (b1 b2 : Byte) (d1 : BitVec 2) :
    b1 &&& 0o307 = octalByte d1 0 2 ↔ ∃ k, decodePair len b1 b2 = selectBit d1 k b2 := by
  rw [and_0o307_eq_iff]
  constructor
  · rintro ⟨rfl, h3⟩
    exact ⟨_, (decodePair_bit len b2 h3).trans (decodeBit_eq_select b1 b2)⟩
  · rintro ⟨k, h⟩
    rw [decodePair_eq_iff_first_byte (selectBit_wellFormed len d1 k b2) (encode_selectBit d1 k b2) (.inr rfl),
      octalByte_eq_iff] at h
    obtain ⟨h1, _, h3⟩ := h
    exact ⟨h1, h3⟩

/-- R85, R90: a jump, by the second digit and a third digit of 3 and more. -/
theorem match_iff_decodePair_jump (len : Noop31Length) (b1 b2 : Byte) {d2 : BitVec 3} (h2 : 4 ≤ d2.toNat) :
    (3 ≤ (b1 &&& 0o007).toNat ∧ b1 &&& 0o070 = octalByte 0 d2 0) ↔
      ∃ t c, decodePair len b1 b2 = selectJump d2 t c b2 := by
  rw [toNat_and_0o007, and_0o070_eq_iff]
  constructor
  · rintro ⟨h3, rfl⟩
    exact ⟨_, _, (decodePair_jump len b2 h3 h2).trans (decodeJump_eq_select b1 b2)⟩
  · rintro ⟨t, c, h⟩
    rw [decodePair_eq_iff_first_byte (selectJump_wellFormed len d2 t c b2 h2) (encode_selectJump d2 t c b2 h2)
      (.inr rfl), octalByte_eq_iff] at h
    obtain ⟨_, hd2, h3⟩ := h
    exact ⟨h3 ▸ Cond.three_le_digit c, hd2⟩

/-- R90, R173: the codes 0o313 to 0o317, by the first two digits and a third digit of 3 and more. -/
theorem match_iff_decodePair_noop31 (len : Noop31Length) (b1 b2 : Byte) :
    (3 ≤ (b1 &&& 0o007).toNat ∧ b1 &&& 0o370 = octalByte 3 1 0) ↔
      ∃ m second, decodePair len b1 b2 = .noop31 m second := by
  rw [toNat_and_0o007, and_0o370_eq_iff]
  constructor
  · rintro ⟨h3, h1, h2⟩
    refine ⟨Mode.ofDigit (digit3 b1), noop31Second len b2, ?_⟩
    rw [decodePair_operand len b2 h3 (by rw [h2]; decide), decodeOperand_eq_select, h1, h2]
    rfl
  · rintro ⟨m, second, h⟩
    obtain ⟨_, rest, hEncode⟩ := (decodePair_eq_iff len b1 b2 _).mp h
    obtain ⟨rfl, _⟩ := List.cons_eq_cons.mp hEncode
    simp [Mode.three_le_digit]

/-- Settles O4: each clause is one class of first bytes; the masks leave the digits that select it. -/
theorem firstByteSelectsByMask : Obligations.FirstByteSelectsByMask := by
  intro len b1 b2
  exact ⟨match_iff_decodePair_misc len b1 b2 0, match_iff_decodePair_misc len b1 b2 1,
    match_iff_decodePair_shift len b1 b2 0, match_iff_decodePair_shift len b1 b2 1,
    match_iff_decodePair_shift len b1 b2 2, match_iff_decodePair_shift len b1 b2 3,
    match_iff_decodePair_bit len b1 b2 0, match_iff_decodePair_bit len b1 b2 1,
    match_iff_decodePair_bit len b1 b2 2, match_iff_decodePair_bit len b1 b2 3,
    match_iff_decodePair_jump len b1 b2 (d2 := 4) (by decide),
    match_iff_decodePair_jump len b1 b2 (d2 := 5) (by decide),
    match_iff_decodePair_jump len b1 b2 (d2 := 6) (by decide),
    match_iff_decodePair_jump len b1 b2 (d2 := 7) (by decide),
    match_iff_decodePair_noop31 len b1 b2⟩

/-- Settles O5: each word is the encoding of its instruction, which the decoder undoes. -/
theorem sampleWordsDecode : Obligations.SampleWordsDecode := by
  have undo (len : Noop31Length) := decodeOfEncodeIsTheInstruction len
  exact ⟨undo .two (.add .b .constant 1) [] rfl, undo .two (.store .b .memory 0o200) [] rfl,
    undo .two (.jpd .unconditional .zero 4) [] rfl, undo .two (.and .indirect 0o050) [] rfl,
    undo .two (.skp0 7 0o377) [] rfl, undo .two (.sftr .b .three) [] rfl, undo .two (.halt 0b1111) [] rfl,
    undo .two (.noop31 .memory (some 0o100)) [] rfl, undo .one (.noop31 .memory none) [0o100] rfl⟩

end Sys2Proof
end

section
/-! PROOFS. The family of 10_state.md and 20_memory.md: the canonical form of memory is one, and reset meets it. -/

namespace Sys2Proof.Machine

theorem Memory.wfFrom_cons {low a : Nat} {v : Byte} {rest : Memory} (h : Memory.wfFrom low ((a, v) :: rest) = true) :
    low ≤ a ∧ a < 256 ∧ v ≠ Memory.unlisted ∧ rest.wfFrom (a + 1) = true := by
  simp only [Memory.wfFrom, Bool.and_eq_true, decide_eq_true_eq] at h
  obtain ⟨⟨⟨hLow, hTop⟩, hListed⟩, hRest⟩ := h
  exact ⟨hLow, hTop, hListed, hRest⟩

theorem Memory.lookup_cons_self (a : Nat) (v : Byte) (rest : Memory) : Memory.lookup a ((a, v) :: rest) = v :=
  if_pos rfl

theorem Memory.lookup_cons_of_ne {a b : Nat} (v : Byte) (rest : Memory) (h : b ≠ a) :
    Memory.lookup a ((b, v) :: rest) = Memory.lookup a rest := if_neg h

/-- Below its first cell a canonical memory lists nothing. -/
theorem Memory.lookup_of_lt {low a : Nat} {mem : Memory} (hWf : mem.wfFrom low = true) (h : a < low) :
    mem.lookup a = Memory.unlisted := by
  induction mem generalizing low with
  | nil => rfl
  | cons cell rest ih =>
    obtain ⟨b, w⟩ := cell
    obtain ⟨hLow, _, _, hRest⟩ := Memory.wfFrom_cons hWf
    rw [Memory.lookup_cons_of_ne w rest (by omega)]
    exact ih hRest (by omega)

theorem Memory.wfFrom_head {low a : Nat} {v : Byte} {rest : Memory} (h : Memory.wfFrom low ((a, v) :: rest) = true) :
    Memory.wfFrom a ((a, v) :: rest) = true := by
  obtain ⟨_, hTop, hListed, hRest⟩ := Memory.wfFrom_cons h
  simp [Memory.wfFrom, hTop, hListed, hRest]

/-- A canonical memory that reads as one whose first cell stands at `a` has no room to begin above `a`. -/
theorem Memory.le_of_lookup_eq {low first a : Nat} {v : Byte} {rest mem : Memory}
    (hWf : Memory.wfFrom low ((a, v) :: rest) = true) (hMem : mem.wfFrom first = true)
    (hRead : ∀ c < 256, Memory.lookup c ((a, v) :: rest) = mem.lookup c) : first ≤ a := by
  obtain ⟨_, hTop, hListed, _⟩ := Memory.wfFrom_cons hWf
  by_contra hAbove
  have unlisted : mem.lookup a = Memory.unlisted := Memory.lookup_of_lt hMem (by omega)
  exact hListed ((Memory.lookup_cons_self a v rest).symm.trans ((hRead a hTop).trans unlisted))

/-- Cells that stand at one address and read the same have the same value and rests that read the same. -/
theorem Memory.lookup_eq_of_cons {a : Nat} {v w : Byte} {rest rest' : Memory} (hTop : a < 256)
    (hRest : rest.wfFrom (a + 1) = true) (hRest' : rest'.wfFrom (a + 1) = true)
    (hRead : ∀ c < 256, Memory.lookup c ((a, v) :: rest) = Memory.lookup c ((a, w) :: rest')) :
    v = w ∧ ∀ c < 256, rest.lookup c = rest'.lookup c := by
  have value : v = w := by simpa only [Memory.lookup_cons_self] using hRead a hTop
  refine ⟨value, fun c hc => ?_⟩
  by_cases here : a = c
  · rw [Memory.lookup_of_lt hRest (by omega), Memory.lookup_of_lt hRest' (by omega)]
  · simpa only [Memory.lookup_cons_of_ne _ _ here] using hRead c hc

theorem Memory.eq_of_lookup_eq {low : Nat} (mem mem' : Memory) (hWf : mem.wfFrom low = true)
    (hWf' : mem'.wfFrom low = true) (hRead : ∀ c < 256, mem.lookup c = mem'.lookup c) : mem = mem' := by
  induction mem generalizing low mem' with
  | nil =>
    cases mem' with
    | nil => rfl
    | cons cell' rest' =>
      have room : 256 ≤ cell'.1 := Memory.le_of_lookup_eq (mem := []) hWf' rfl fun c hc => (hRead c hc).symm
      obtain ⟨_, hTop, _, _⟩ := Memory.wfFrom_cons hWf'
      omega
  | cons cell rest ih =>
    obtain ⟨a, v⟩ := cell
    obtain ⟨_, hTop, _, hRest⟩ := Memory.wfFrom_cons hWf
    cases mem' with
    | nil =>
      have room : 256 ≤ a := Memory.le_of_lookup_eq (mem := []) hWf rfl hRead
      omega
    | cons cell' rest' =>
      obtain ⟨a', w⟩ := cell'
      have notAbove : a' ≤ a := Memory.le_of_lookup_eq hWf (Memory.wfFrom_head hWf') hRead
      have notBelow : a ≤ a' :=
        Memory.le_of_lookup_eq hWf' (Memory.wfFrom_head hWf) fun c hc => (hRead c hc).symm
      obtain rfl : a = a' := Nat.le_antisymm notBelow notAbove
      obtain ⟨_, _, _, hRest'⟩ := Memory.wfFrom_cons hWf'
      obtain ⟨rfl, hRests⟩ := Memory.lookup_eq_of_cons hTop hRest hRest' hRead
      rw [ih rest' hRest hRest' hRests]

/-- Settles O9: the 256 bytes are the numbers below 256, so equal reads are equal lookups. -/
theorem canonicalMemoriesAreEqual : Obligations.CanonicalMemoriesAreEqual := by
  intro m m' hWf hWf' hRead
  refine Memory.eq_of_lookup_eq m m' hWf hWf' fun c hc => ?_
  have address : (BitVec.ofNat 8 c).toNat = c := Nat.mod_eq_of_lt hc
  simpa only [Memory.read, address] using hRead (BitVec.ofNat 8 c)

/-- Settles O7: a memory without cells is canonical. -/
theorem resetMemoryIsCanonical : Obligations.ResetMemoryIsCanonical := rfl

/-- Settles O6: every address of the empty memory is unlisted; the other fields are those of the reset record. -/
theorem resetLeavesTheNamedValues : Obligations.ResetLeavesTheNamedValues :=
  ⟨fun _ => rfl, rfl, rfl, rfl, rfl, rfl, rfl⟩

end Sys2Proof.Machine
end

section
/-! PROOFS. What an instruction does, said once: the five forms of writes the instructions are made of, what each leaves
unchanged, and the statements about all instructions that follow from it. -/

namespace Sys2Proof.Machine

/-- R59, R111: the states an instruction other than HALT can answer from `s`, with the addresses it stores to beside
P. -/
inductive Effect (s : State) : List Byte → State → Prop where
  /-- a result, then the advance of P -/
  | result (a w n : Byte) : Effect s [a] ((s.write a w).advance n)
  /-- ADD and SUB: a result, the flag byte of its register, then the advance of P -/
  | flags (r : Reg) (w u : Byte) :
      Effect s [regAddr r, flagAddr r] (((s.write (regAddr r) w).write (flagAddr r) u).advance 2)
  /-- the advance of P alone -/
  | advance (n : Byte) : Effect s [] (s.advance n)
  /-- a jump or skip -/
  | branch (taken : Bool) (target : Byte) : Effect s [] (s.branch taken target)
  /-- Jump and Mark -/
  | mark (taken : Bool) (target : Byte) : Effect s (if taken then [target] else []) (s.jumpAndMark taken target)

/-- The instruction is not HALT: it answers one of the five. -/
theorem exec_effect (i : Instr) (s : State) (hi : ∀ x, i ≠ .halt x) :
    ∃ t, exec i s = .next t ∧ Effect s (storesTo i s) t := by
  cases i with
  | add r m b2 | sub r m b2 => exact ⟨_, rfl, .flags r _ _⟩
  | load r m b2 => exact ⟨_, rfl, .result (regAddr r) _ 2⟩
  | store r m b2 => exact ⟨_, rfl, .result (s.effectiveAddress m b2) _ 2⟩
  | and m b2 | or m b2 | lneg m b2 => exact ⟨_, rfl, .result addrA _ 2⟩
  | set0 k b2 | set1 k b2 => exact ⟨_, rfl, .result b2 _ 2⟩
  | sftl g n | sftr g n | rotl g n | rotr g n => exact ⟨_, rfl, .result (shiftRegAddr g) _ 1⟩
  | noop x => exact ⟨_, rfl, .advance 1⟩
  | noop31 m second => exact ⟨_, rfl, .advance s.noop31Advance⟩
  | jpd t c b2 | jpi t c b2 | skp0 k b2 | skp1 k b2 => exact ⟨_, rfl, .branch _ _⟩
  | jmd t c b2 | jmi t c b2 => exact ⟨_, rfl, .mark _ _⟩
  | halt x => exact absurd rfl (hi x)

/-- What an instruction that answers did: HALT, or one of the five. -/
theorem exec_next {i : Instr} {s t : State} (h : exec i s = .next t) :
    (∃ x, i = .halt x ∧ t = (s.advance 1).enterHalt) ∨ (∀ x, i ≠ .halt x) ∧ Effect s (storesTo i s) t := by
  by_cases hi : ∃ x, i = .halt x
  · obtain ⟨x, rfl⟩ := hi
    exact .inl ⟨x, rfl, (Host.Outcome.next.inj h).symm⟩
  · have notHalt : ∀ x, i ≠ .halt x := not_exists.mp hi
    obtain ⟨u, hu, hEffect⟩ := exec_effect i s notHalt
    obtain rfl : u = t := Host.Outcome.next.inj (hu.symm.trans h)
    exact .inr ⟨notHalt, hEffect⟩

namespace Effect

variable {s t : State} {stored : List Byte}

theorem unchangedExcept (h : Effect s stored t) : UnchangedExcept s t (addrP :: stored) := by
  intro b hb
  obtain ⟨hP, hStored⟩ : b ≠ addrP ∧ b ∉ stored := by simpa using hb
  cases h with
  | result a w n =>
    rw [State.read_advance, if_neg hP, State.read_write, if_neg (by simpa using hStored)]
  | flags r w u =>
    obtain ⟨hReg, hFlag⟩ : b ≠ regAddr r ∧ b ≠ flagAddr r := by simpa using hStored
    rw [State.read_advance, if_neg hP, State.read_write, if_neg hFlag, State.read_write, if_neg hReg]
  | advance n => rw [State.read_advance, if_neg hP]
  | branch taken target => rw [State.read_branch, if_neg hP]
  | mark taken target =>
    cases taken with
    | false => rw [State.jumpAndMark_not_taken, State.read_advance, if_neg hP]
    | true => rw [State.read_jumpAndMark_taken, if_neg hP, if_neg (by simpa using hStored)]

theorem same (h : Effect s stored t) : SameBesideMemory s t := by
  cases h with
  | result a w n => rfl
  | flags r w u => rfl
  | advance n => rfl
  | branch taken target => exact State.branch_same s taken target
  | mark taken target => exact State.jumpAndMark_same s taken target

theorem wf (h : Effect s stored t) (hWf : s.mem.wf = true) : t.mem.wf = true := by
  cases h with
  | result a w n => exact State.advance_wf _ n (State.write_wf s a w hWf)
  | flags r w u => exact State.advance_wf _ 2 (State.write_wf _ _ u (State.write_wf s _ w hWf))
  | advance n => exact State.advance_wf s n hWf
  | branch taken target => exact State.branch_wf s taken target hWf
  | mark taken target => exact State.jumpAndMark_wf s taken target hWf

end Effect

/-- Settles O14: HALT by its own meaning, every other instruction by the form of its writes. -/
theorem everyInstructionCompletesInItsFrame : Obligations.EveryInstructionCompletesInItsFrame := by
  intro i s
  by_cases hi : ∃ x, i = .halt x
  · obtain ⟨x, rfl⟩ := hi
    exact ⟨_, exec_halt x s, State.advance_unchangedExcept s 1, fun notHalt => absurd rfl (notHalt x), fun _ _ => rfl⟩
  · obtain ⟨t, hExec, hEffect⟩ := exec_effect i s (not_exists.mp hi)
    exact ⟨t, hExec, hEffect.unchangedExcept, fun _ => hEffect.same, fun x hx => absurd ⟨x, hx⟩ hi⟩

/-- R200: no instruction faults or is refused. -/
theorem exec_completes (i : Instr) (s : State) : ∃ t, exec i s = .next t := by
  obtain ⟨t, hExec, _⟩ := everyInstructionCompletesInItsFrame i s
  exact ⟨t, hExec⟩

theorem exec_unchangedExcept {i : Instr} {s t : State} (h : exec i s = .next t) :
    UnchangedExcept s t (addrP :: storesTo i s) := by
  obtain ⟨u, hExec, hFrame, _⟩ := everyInstructionCompletesInItsFrame i s
  exact Host.Outcome.next.inj (hExec.symm.trans h) ▸ hFrame

/-- An instruction keeps memory in canonical form. -/
theorem exec_wf {i : Instr} {s t : State} (h : exec i s = .next t) (hWf : s.mem.wf = true) : t.mem.wf = true := by
  obtain ⟨_, _, rfl⟩ | ⟨_, hEffect⟩ := exec_next h
  · exact State.advance_wf s 1 hWf
  · exact hEffect.wf hWf

/-- An instruction that does not store to a flag byte leaves it alone. -/
theorem read_flagAddr_of_exec {i : Instr} {s t : State} {q : Reg} (h : exec i s = .next t)
    (beside : ∀ a ∈ storesTo i s, a ≠ flagAddr q) : t.read (flagAddr q) = s.read (flagAddr q) :=
  exec_unchangedExcept h _
    (List.not_mem_cons_of_ne_of_not_mem (flagAddr_ne_addrP q) fun stored => beside _ stored rfl)

theorem shiftRegAddr_ne_flagAddr (g : ShiftReg) (q : Reg) : shiftRegAddr g ≠ flagAddr q := by
  cases g <;> cases q <;> decide

theorem flagByte_le_three (ca ov : Bool) : (flagByte ca ov).toNat ≤ 3 := by
  cases ca <;> cases ov <;> decide

theorem flagAddr_injective {r q : Reg} (h : flagAddr r = flagAddr q) : r = q := by
  revert h
  cases r <;> cases q <;> decide

/-- R29: what ADD and SUB leave in the flag byte of their own register, and of another. -/
theorem read_flagAddr_of_exec_eq_write_flags {i : Instr} {s t : State} {r q : Reg} {w : Byte} {ca ov : Bool}
    (hExec : exec i s = .next (((s.write (regAddr r) w).write (flagAddr r) (flagByte ca ov)).advance 2))
    (hStores : storesTo i s = [regAddr r, flagAddr r]) (h : exec i s = .next t) :
    if r = q then (t.read (flagAddr q)).toNat ≤ 3 else t.read (flagAddr q) = s.read (flagAddr q) := by
  split
  case isTrue own =>
    obtain ⟨u, hu, _, hFlags, _⟩ := completes_of_exec_eq_write_flags hExec
    obtain rfl : u = t := Host.Outcome.next.inj (hu.symm.trans h)
    rw [← own, hFlags]
    exact flagByte_le_three ca ov
  case isFalse other =>
    refine read_flagAddr_of_exec h ?_
    have beside : flagAddr r ≠ flagAddr q := fun same => other (flagAddr_injective same)
    simp [hStores, beside, regAddr_ne_flagAddr r q]

/-- Settles O28: a flag byte changes only where it is among the addresses stored to, and ADD and SUB write it
themselves. -/
theorem onlyAddAndSubUpdateFlags : Obligations.OnlyAddAndSubUpdateFlags := by
  intro i s t q h
  cases i with
  | add r m b2 => exact read_flagAddr_of_exec_eq_write_flags (exec_add r m b2 s) rfl h
  | sub r m b2 => exact read_flagAddr_of_exec_eq_write_flags (ca := subCarryBit _ _ _) rfl rfl h
  | store r m b2 => exact fun beside => read_flagAddr_of_exec h (List.forall_mem_singleton.mpr beside)
  | set0 k b2 | set1 k b2 => exact fun beside => read_flagAddr_of_exec h (List.forall_mem_singleton.mpr beside)
  | jmd c k b2 | jmi c k b2 =>
    refine fun beside => read_flagAddr_of_exec h ?_
    simp only [storesTo]
    split
    case isTrue taken => exact List.forall_mem_singleton.mpr (beside taken)
    case isFalse => exact List.forall_mem_nil _
  | load r m b2 => exact read_flagAddr_of_exec h (List.forall_mem_singleton.mpr (regAddr_ne_flagAddr r q))
  | and m b2 | or m b2 | lneg m b2 =>
    exact read_flagAddr_of_exec h (List.forall_mem_singleton.mpr (regAddr_ne_flagAddr .a q))
  | sftl g n | sftr g n | rotl g n | rotr g n =>
    exact read_flagAddr_of_exec h (List.forall_mem_singleton.mpr (shiftRegAddr_ne_flagAddr g q))
  | noop31 | jpd | jpi | skp0 | skp1 | noop | halt => exact read_flagAddr_of_exec h (List.forall_mem_nil _)

/-- R32, R34: a branch and the console's own registers do not meet. -/
theorem State.branch_setAr_latchShown (s : State) (v w : Byte) (taken : Bool) (target : Byte) :
    ((s.setAr v).latchShown w).branch taken target = ((s.branch taken target).setAr v).latchShown w := by
  cases taken <;> rfl

theorem State.jumpAndMark_setAr_latchShown (s : State) (v w : Byte) (taken : Bool) (target : Byte) :
    ((s.setAr v).latchShown w).jumpAndMark taken target = ((s.jumpAndMark taken target).setAr v).latchShown w := by
  cases taken <;> rfl

/-- Settles O15: no meaning reads the two registers, and the writes it makes are to memory and, for HALT, to other
fields. -/
theorem instructionsCannotSeeConsoleRegisters : Obligations.InstructionsCannotSeeConsoleRegisters := by
  intro i s t v w h
  cases i with
  | jpd | jpi | skp0 | skp1 =>
    obtain rfl := Host.Outcome.next.inj h
    exact congrArg Host.Outcome.next (State.branch_setAr_latchShown s v w _ _)
  | jmd | jmi =>
    obtain rfl := Host.Outcome.next.inj h
    exact congrArg Host.Outcome.next (State.jumpAndMark_setAr_latchShown s v w _ _)
  | add | sub | load | store | and | or | lneg | set0 | set1 | sftl | sftr | rotl | rotr | noop | noop31 | halt =>
    obtain rfl := Host.Outcome.next.inj h
    rfl

end Sys2Proof.Machine
end

section
/-! PROOFS. What a turn does, said once: the processor's turn, each press that is answered, and the statements about
every step that follow from it. -/

namespace Sys2Proof.Machine

/-- R60, R225: the presses that are answered, from which states and with which next state. -/
inductive Press (s : State) : ConsoleEvent → State → Prop where
  | dataButton (i : Fin 8) (hPower : s.power = .on) :
      Press s (.dataButton i) ((s.pressData i).light (if s.run = .halt then .input else s.sel))
  | clear (hPower : s.power = .on) : Press s .clear (s.pressClear.light (if s.run = .halt then .input else s.sel))
  | addressSet (hPower : s.power = .on) (hRun : s.run = .halt) : Press s .addressSet s.pressAddressSet
  | addressDisplay (hPower : s.power = .on) (hRun : s.run = .halt) : Press s .addressDisplay s.pressAddressDisplay
  | memoryRead (hPower : s.power = .on) (hRun : s.run = .halt) : Press s .memoryRead s.pressMemoryRead
  | memoryStore (hPower : s.power = .on) (hRun : s.run = .halt) : Press s .memoryStore s.pressMemoryStore
  | start (hPower : s.power = .on) (hRun : s.run = .run → s.circuits = .undefined) : Press s .start s.enterRun
  | stop (hPower : s.power = .on) (hRun : s.run = .run) : Press s .stop s.enterHalt
  | singleStep (t : State) (hPower : s.power = .on) (hRun : s.run = .halt)
      (hExec : exec s.enterRun.nextInstr s.enterRun = .next t) : Press s .singleStep t.enterHalt
  | powerOn (hPower : s.power = .off) : Press s .powerOn (s.loseAll .on)
  | powerOff (hPower : s.power = .on) : Press s .powerOff (s.loseAll .off)

theorem press_of_pressInRun {e : ConsoleEvent} {s t : State} (hPower : s.power = .on) (hRun : s.run = .run)
    (h : pressInRun e s = .next t) : Press s e t := by
  have lamps : (if s.run = .halt then .input else s.sel) = s.sel := if_neg (by simp [hRun])
  cases e with
  | dataButton i =>
    obtain rfl := Host.Outcome.next.inj h
    have pressed : Press s (.dataButton i) ((s.pressData i).light s.sel) := lamps ▸ .dataButton i hPower
    exact pressed
  | clear =>
    obtain rfl := Host.Outcome.next.inj h
    have pressed : Press s .clear (s.pressClear.light s.sel) := lamps ▸ .clear hPower
    exact pressed
  | stop => exact Host.Outcome.next.inj h ▸ .stop hPower hRun
  | start =>
    obtain ⟨hUndefined, rfl⟩ := startInRun_next s t h
    exact .start hPower fun _ => hUndefined
  | powerOff => exact Host.Outcome.next.inj h ▸ .powerOff hPower
  | addressSet | addressDisplay | memoryRead | memoryStore | singleStep | powerOn => cases h

theorem press_of_pressInHalt {e : ConsoleEvent} {s t : State} (hPower : s.power = .on) (hRun : s.run = .halt)
    (h : pressInHalt e s = .next t) : Press s e t := by
  have lamps : (if s.run = .halt then .input else s.sel) = Sel.input := if_pos hRun
  cases e with
  | dataButton i => exact Host.Outcome.next.inj h ▸ lamps ▸ .dataButton i hPower
  | clear => exact Host.Outcome.next.inj h ▸ lamps ▸ .clear hPower
  | addressSet => exact Host.Outcome.next.inj h ▸ .addressSet hPower hRun
  | addressDisplay => exact Host.Outcome.next.inj h ▸ .addressDisplay hPower hRun
  | memoryRead => exact Host.Outcome.next.inj h ▸ .memoryRead hPower hRun
  | memoryStore => exact Host.Outcome.next.inj h ▸ .memoryStore hPower hRun
  | start => exact Host.Outcome.next.inj h ▸ .start hPower fun run => nomatch hRun.symm.trans run
  | singleStep =>
    obtain ⟨u, hExec, rfl⟩ := singleStep_next s t h
    exact .singleStep u hPower hRun hExec
  | powerOff => exact Host.Outcome.next.inj h ▸ .powerOff hPower
  | stop | powerOn => cases h

/-- Only the power switch is answered while power is off. -/
theorem press_of_pressWhileOff {e : ConsoleEvent} {s t : State} (hPower : s.power = .off)
    (h : pressWhileOff e s = .next t) : Press s e t := by
  cases e with
  | powerOn => exact Host.Outcome.next.inj h ▸ .powerOn hPower
  | _ => cases h

theorem press_of_operatorTurn {e : ConsoleEvent} {s t : State} (h : operatorTurn e s = .next t) : Press s e t := by
  cases hPower : s.power with
  | on =>
    cases hRun : s.run with
    | run => exact press_of_pressInRun hPower hRun (operatorTurn_of_run e s hPower hRun ▸ h)
    | halt => exact press_of_pressInHalt hPower hRun (operatorTurn_of_halt e s hPower hRun ▸ h)
  | off =>
    have off : operatorTurn e s = pressWhileOff e s := by simp only [operatorTurn, hPower]
    exact press_of_pressWhileOff hPower (off ▸ h)

/-- With power off the processor's turn changes nothing. -/
theorem processorTurn_of_off (s : State) (hPower : s.power = .off) : processorTurn s = .next s := by
  simp only [processorTurn, hPower]

/-- R30, R110: the processor's turn changes nothing, or it is one instruction of a running machine. -/
theorem processorTurn_next {s t : State} (h : processorTurn s = .next t) :
    t = s ∨ s.power = .on ∧ s.run = .run ∧ exec s.nextInstr s = .next t := by
  cases hPower : s.power with
  | on =>
    cases hRun : s.run with
    | run => exact .inr ⟨rfl, rfl, (processorTurn_of_run s hPower hRun).symm.trans h⟩
    | halt => exact .inl (Host.Outcome.next.inj (h.symm.trans (processorTurn_of_halt s hPower hRun)))
  | off => exact .inl (Host.Outcome.next.inj (h.symm.trans (processorTurn_of_off s hPower)))

/-- No turn is taken off a schedule that is empty. -/
theorem State.withSchedule_nil (s : State) (h : s.schedule = []) : s.withSchedule [] = s := by
  cases s
  cases h
  rfl

/-- R60: a step that answers is the processor's turn or an answered press, with the turn taken off the schedule. -/
theorem step_next {s t : State} (h : step s = .next t) :
    ∃ rest, (s.schedule = [] ∨ s.schedule = .processor :: rest) ∧ processorTurn (s.withSchedule rest) = .next t ∨
      ∃ e, s.schedule = .operator e :: rest ∧ Press (s.withSchedule rest) e t := by
  cases hSchedule : s.schedule with
  | nil => exact ⟨[], .inl ⟨.inl rfl, by rw [s.withSchedule_nil hSchedule, ← step_of_empty s hSchedule, h]⟩⟩
  | cons next rest =>
    cases next with
    | processor => exact ⟨rest, .inl ⟨.inr rfl, step_of_processor s rest hSchedule ▸ h⟩⟩
    | operator e => exact ⟨rest, .inr ⟨e, rfl, press_of_operatorTurn (step_of_operator s e rest hSchedule ▸ h)⟩⟩

theorem Press.wf {s t : State} {e : ConsoleEvent} (h : Press s e t) (hWf : s.mem.wf = true) : t.mem.wf = true := by
  cases h with
  | dataButton i => exact State.pressData_wf s i hWf
  | clear => exact State.pressClear_wf s hWf
  | memoryStore => exact State.pressMemoryStore_wf s hWf
  | singleStep u _ _ hExec =>
    have executed : u.mem.wf = true := exec_wf hExec hWf
    exact executed
  | powerOn | powerOff => exact State.loseAll_wf s _
  | addressSet | addressDisplay | memoryRead | start | stop => exact hWf

/-- Settles O8: the processor's turn is an instruction or nothing; a press writes a byte, fills all of memory or
leaves it. -/
theorem stepKeepsMemoryCanonical : Obligations.StepKeepsMemoryCanonical := by
  intro s t hWf h
  obtain ⟨rest, ⟨_, hTurn⟩ | ⟨e, _, hPress⟩⟩ := step_next h
  · obtain rfl | ⟨_, _, hExec⟩ := processorTurn_next hTurn
    · exact hWf
    · exact exec_wf hExec hWf
  · exact hPress.wf hWf

theorem exec_params {i : Instr} {s t : State} (h : exec i s = .next t) : t.params = s.params := by
  obtain ⟨_, _, rfl⟩ | ⟨_, hEffect⟩ := exec_next h
  · rfl
  · exact sameBesideMemory_params s t hEffect.same

theorem Press.params {s t : State} {e : ConsoleEvent} (h : Press s e t) : t.params = s.params := by
  cases h with
  | singleStep u _ _ hExec => exact (exec_params hExec).trans (State.enterRun_params s)
  | _ => rfl

/-- Settles O10: neither an instruction nor a press writes the parameters. -/
theorem stepKeepsTheParameters : Obligations.StepKeepsTheParameters := by
  intro s t h
  obtain ⟨rest, ⟨_, hTurn⟩ | ⟨e, _, hPress⟩⟩ := step_next h
  · obtain rfl | ⟨_, _, hExec⟩ := processorTurn_next hTurn
    · rfl
    · exact (exec_params hExec).trans (State.withSchedule_params s rest)
  · exact hPress.params

/-- R30: an instruction ends the Run state only if it is HALT. -/
theorem exec_run {i : Instr} {s t : State} (h : exec i s = .next t) : (∃ x, i = .halt x) ∨ t.run = s.run := by
  obtain ⟨x, hi, _⟩ | ⟨_, hEffect⟩ := exec_next h
  · exact .inl ⟨x, hi⟩
  · exact .inr (sameBesideMemory_run s t hEffect.same)

/-- R30: the presses that can end the Run state. -/
theorem Press.leaves_run {s t : State} {e : ConsoleEvent} (h : Press s e t) (hRun : s.run = .run)
    (hHalt : t.run = .halt) (hPower : s.power = .on) : e = .stop ∨ e = .powerOff := by
  cases h with
  | stop => exact .inl rfl
  | powerOff => exact .inr rfl
  | dataButton | clear => cases hRun.symm.trans hHalt
  | start => cases hHalt
  | powerOn hOff => cases hPower.symm.trans hOff
  | addressSet _ hNot | addressDisplay _ hNot | memoryRead _ hNot | memoryStore _ hNot | singleStep _ _ hNot =>
    cases hRun.symm.trans hNot

/-- Settles O16: of the instructions only HALT, of the presses only Stop and the power switch. -/
theorem runStateLastsUntilHaltOrStop : Obligations.RunStateLastsUntilHaltOrStop := by
  intro s t hPower hRun h hHalt
  obtain ⟨rest, ⟨hSchedule, hTurn⟩ | ⟨e, hSchedule, hPress⟩⟩ := step_next h
  · obtain rfl | ⟨_, _, hExec⟩ := processorTurn_next hTurn
    · cases hRun.symm.trans hHalt
    · obtain halt | same := exec_run hExec
      · exact .inl ⟨halt, hSchedule.imp_right fun named => ⟨rest, named⟩⟩
      · cases hHalt.symm.trans (same.trans hRun)
  · obtain rfl | rfl := hPress.leaves_run hRun hHalt hPower
    · exact .inr (.inl ⟨rest, hSchedule⟩)
    · exact .inr (.inr ⟨rest, hSchedule⟩)

/-- R241: what an instruction does to the control circuits; only HALT ends the Run state. -/
theorem exec_circuits {i : Instr} {s t : State} (h : exec i s = .next t) :
    t.run = .halt ∧ t.circuits = s.circuits.afterHalt ∨ t.circuits = s.circuits := by
  obtain ⟨x, _, rfl⟩ | ⟨_, hEffect⟩ := exec_next h
  · exact .inl ⟨rfl, rfl⟩
  · exact .inr (sameBesideMemory_circuits s t hEffect.same)

/-- R241: Start, and then the end of the Run state, twice over where the instruction stepped was HALT. -/
theorem circuits_enterHalt_of_exec_enterRun {i : Instr} {s t : State} (h : exec i s.enterRun = .next t) :
    t.enterHalt.circuits = .initialised := by
  rw [State.enterHalt_circuits]
  obtain ⟨_, halted⟩ | same := exec_circuits h
  · rw [halted, Circuits.afterHalt_afterHalt, State.enterRun_circuits, Circuits.afterHalt_afterStart]
  · rw [same, State.enterRun_circuits, Circuits.afterHalt_afterStart]

/-- R241: Start alone does not initialise the control circuits. -/
theorem Circuits.eq_initialised_of_afterStart {c : Circuits} (h : c.afterStart = .initialised) : c = .initialised := by
  cases c with
  | initialised => rfl
  | undefined | started => cases h

theorem Circuits.afterStart_ne_undefined (c : Circuits) : c.afterStart ≠ .undefined := by cases c <;> decide

theorem Circuits.eq_undefined_of_afterHalt {c : Circuits} (h : c.afterHalt = .undefined) : c = .undefined := by
  cases c with
  | undefined => rfl
  | started | initialised => cases h

/-- How one turn moves the control circuits from `s` to `t`, the pressed button, if any, being `e`. -/
inductive CircuitsMove (s t : State) : Option ConsoleEvent → Prop where
  | same (e : Option ConsoleEvent) (h : t.circuits = s.circuits) : CircuitsMove s t e
  | leavesRun (e : Option ConsoleEvent) (hPower : s.power = .on) (hRun : s.run = .run) (hHalt : t.run = .halt)
      (h : t.circuits = s.circuits.afterHalt) : CircuitsMove s t e
  | start (h : t.circuits = s.circuits.afterStart) : CircuitsMove s t (some .start)
  | singleStep (hPower : s.power = .on) (hHalt : t.run = .halt) (h : t.circuits = .initialised) :
      CircuitsMove s t (some .singleStep)
  | power (e : Option ConsoleEvent) (hPower : s.power ≠ t.power) (h : t.circuits = .undefined) : CircuitsMove s t e

theorem circuitsMove_of_processorTurn {s t : State} (h : processorTurn s = .next t) : CircuitsMove s t none := by
  obtain rfl | ⟨hPower, hRun, hExec⟩ := processorTurn_next h
  · exact .same none rfl
  · obtain ⟨hHalt, halted⟩ | same := exec_circuits hExec
    · exact .leavesRun none hPower hRun hHalt halted
    · exact .same none same

theorem Press.circuitsMove {s t : State} {e : ConsoleEvent} (h : Press s e t) : CircuitsMove s t (some e) := by
  cases h with
  | start => exact .start rfl
  | stop hPower hRun => exact .leavesRun _ hPower hRun rfl rfl
  | singleStep u hPower _ hExec => exact .singleStep hPower rfl (circuits_enterHalt_of_exec_enterRun hExec)
  | powerOn hPower => exact .power _ (by simp [hPower]) rfl
  | powerOff hPower => exact .power _ (by simp [hPower]) rfl
  | dataButton | clear | addressSet | addressDisplay | memoryRead | memoryStore => exact .same _ rfl

/-- The control circuits by one step, the button pressed read off the schedule. -/
theorem circuitsMove_of_step {s t : State} (h : step s = .next t) :
    ∃ rest pressed, CircuitsMove (s.withSchedule rest) t pressed ∧
      ∀ e, pressed = some e → s.schedule = .operator e :: rest := by
  obtain ⟨rest, ⟨_, hTurn⟩ | ⟨e, hSchedule, hPress⟩⟩ := step_next h
  · exact ⟨rest, none, circuitsMove_of_processorTurn hTurn, fun _ none => nomatch none⟩
  · exact ⟨rest, some e, hPress.circuitsMove, fun _ same => Option.some.inj same ▸ hSchedule⟩

namespace CircuitsMove

variable {s t : State} {pressed : Option ConsoleEvent}

theorem of_initialised (h : CircuitsMove s t pressed) (hs : s.circuits ≠ .initialised)
    (ht : t.circuits = .initialised) :
    s.power = .on ∧ t.run = .halt ∧ (s.run = .run ∧ s.circuits = .started ∨ pressed = some .singleStep) := by
  cases h with
  | same _ same => exact absurd (same.symm.trans ht) hs
  | leavesRun _ hPower hRun hHalt halted =>
    obtain started | initialised := (Circuits.afterHalt_eq_initialised s.circuits).mp (halted.symm.trans ht)
    · exact ⟨hPower, hHalt, .inl ⟨hRun, started⟩⟩
    · exact absurd initialised hs
  | start started => exact absurd (Circuits.eq_initialised_of_afterStart (started.symm.trans ht)) hs
  | singleStep hPower hHalt _ => exact ⟨hPower, hHalt, .inr rfl⟩
  | power _ _ undefined => cases ht.symm.trans undefined

theorem of_undefined (h : CircuitsMove s t pressed) (hs : s.circuits ≠ .undefined) (ht : t.circuits = .undefined) :
    s.power ≠ t.power := by
  cases h with
  | same _ same => exact absurd (same.symm.trans ht) hs
  | leavesRun _ _ _ _ halted => exact absurd (Circuits.eq_undefined_of_afterHalt (halted.symm.trans ht)) hs
  | start started => exact absurd (started.symm.trans ht) (Circuits.afterStart_ne_undefined s.circuits)
  | singleStep _ _ initialised => cases ht.symm.trans initialised
  | power _ switched _ => exact switched

theorem of_started (h : CircuitsMove s t pressed) (hs : s.circuits = .undefined) (ht : t.circuits = .started) :
    pressed = some .start := by
  cases h with
  | same _ same => cases hs.symm.trans (same.symm.trans ht)
  | leavesRun _ _ _ _ halted =>
    rw [hs, ht] at halted
    cases halted
  | start => rfl
  | singleStep _ _ initialised => cases ht.symm.trans initialised
  | power _ _ undefined => cases ht.symm.trans undefined

end CircuitsMove

/-- R219, R241: Start in the Run state is answered only while the control circuits are undefined. -/
theorem circuits_of_step_start_in_run {s t : State} {rest : List Turn} (h : step s = .next t)
    (hSchedule : s.schedule = .operator .start :: rest) (hRun : s.run = .run) : s.circuits = .undefined := by
  have pressed : Press (s.withSchedule rest) .start t :=
    press_of_operatorTurn (step_of_operator s .start rest hSchedule ▸ h)
  cases pressed with
  | start _ inRun => exact inRun hRun

/-- Settles O57: the five ways a turn moves the control circuits, and HALT, which ends the Run state. -/
theorem powerOnProcedureInitialisesTheCircuits : Obligations.PowerOnProcedureInitialisesTheCircuits := by
  refine ⟨fun s t h => ?turn, fun x s => ⟨_, exec_halt x s, ?started, ?undefined⟩⟩
  case turn =>
    obtain ⟨rest, pressed, hMove, hSchedule⟩ := circuitsMove_of_step h
    refine ⟨fun hs ht => ?_, hMove.of_undefined, fun hs ht => ⟨rest, hSchedule _ (hMove.of_started hs ht)⟩,
      fun _ => circuits_of_step_start_in_run h⟩
    obtain ⟨hPower, hHalt, left⟩ := hMove.of_initialised hs ht
    exact ⟨hPower, hHalt, left.imp_right fun single => ⟨rest, hSchedule _ single⟩⟩
  case started =>
    intro hStarted
    rw [State.enterHalt_circuits, State.advance_circuits, hStarted, Circuits.started_afterHalt]
  case undefined =>
    intro hUndefined
    rw [State.enterHalt_circuits, State.advance_circuits, hUndefined, Circuits.undefined_afterHalt]

/-- Settles O11: the two bytes at P are the fetch, and they decode to the instruction the cycle executes. -/
theorem stepRunsTheDecodedInstruction : Obligations.StepRunsTheDecodedInstruction := by
  intro s i after hPower hRun hDecode
  have next : s.nextInstr = i := by
    obtain ⟨read, _⟩ := everyFirstByteDecodes s.params.noop31Length (s.read s.pc) (s.read (s.pc + 1)) []
    exact congrArg Prod.fst (Except.ok.inj (read.symm.trans hDecode))
  refine ⟨fun hSchedule => ?_, fun rest hSchedule => ?_⟩
  · rw [step_of_empty s hSchedule, processorTurn_of_run s hPower hRun, instructionCycle, next]
  · rw [step_of_processor s rest hSchedule, processorTurn_of_run (s.withSchedule rest) hPower hRun, ← next]
    rfl

/-- Settles O12: the bytes that stand at P begin with the encoding, so they are read as the instruction. -/
theorem storedInstructionRuns : Obligations.StoredInstructionRuns := by
  intro s i hRunning hi hBytes
  obtain ⟨hPower, hRun, hSchedule⟩ := hRunning
  have next : s.nextInstr = i := by
    obtain ⟨b1, hEncode, _⟩ | ⟨b1, b2, hEncode, _⟩ := encode_eq_one_or_two hi
    · have first : s.read s.pc = b1 := by simpa using hBytes 0 b1 (by rw [hEncode]; rfl)
      exact decodePair_of_encode _ i _ _ [s.read (s.pc + 1)] hi (by rw [hEncode, ← first]; rfl)
    · have first : s.read s.pc = b1 := by simpa using hBytes 0 b1 (by rw [hEncode]; rfl)
      have second : s.read (s.pc + 1) = b2 := hBytes 1 b2 (by rw [hEncode]; rfl)
      exact decodePair_of_encode _ i _ _ [] hi (by rw [hEncode, ← first, ← second]; rfl)
  rw [step_of_empty s hSchedule, processorTurn_of_run s hPower hRun, instructionCycle, next]

/-- R30, R208: off, or in the Halt state, the processor's turn changes nothing. -/
theorem processorTurn_of_off_or_halt (s : State) (h : s.power = .off ∨ s.run = .halt) : processorTurn s = .next s := by
  cases hPower : s.power with
  | off => exact processorTurn_of_off s hPower
  | on => exact processorTurn_of_halt s hPower (h.resolve_left (by simp [hPower]))

/-- Settles O13: the processor's turn of a machine that is off or halted, with the turn taken off the schedule or not.
-/
theorem haltedMachineExecutesNothing : Obligations.HaltedMachineExecutesNothing := by
  intro s h
  refine ⟨fun hSchedule => ?_, fun rest hSchedule => ?_⟩
  · rw [step_of_empty s hSchedule, processorTurn_of_off_or_halt s h]
  · rw [step_of_processor s rest hSchedule, processorTurn_of_off_or_halt (s.withSchedule rest) h]

end Sys2Proof.Machine
end

section
/-! PROOFS. The families of 40_addressing_modes.md, 41_add_sub_load_store.md, 43_jumps.md, 44_skip_set.md and
46_noop_halt.md: the addressing modes, the flags of SUB, and the meanings that store where they are told to. -/

namespace Sys2Proof.Machine

/-- Settles O17: each mode by its own clause of the effective address; the fetch reads the byte at P + 1. -/
theorem fiveAddressingModes : Obligations.FiveAddressingModes :=
  ⟨rfl, fun _ _ => ⟨rfl, rfl, rfl, rfl, rfl, fun _ => rfl, id⟩⟩

/-- Settles O18: with P as the pointer the byte pointed at is p itself; LOAD is the case of that mode. -/
theorem relativeOperandAddressing : Obligations.RelativeOperandAddressing := by
  refine ⟨rfl, fun r s => ⟨rfl, ?_⟩⟩
  obtain ⟨_, t, hExec, hReg, hPc, _, _⟩ := loadCopiesOperandToRegister r .indirectIndexed addrP s
  exact ⟨t, hExec, hReg, hPc⟩

/-! ### ADD and SUB -/

/-- R83: the first byte of format RM, the designated register as its address. -/
theorem octalByte_reg_eq_ofNat (r : Reg) (d2 : BitVec 3) (m : Mode) :
    octalByte r.digit d2 m.digit = BitVec.ofNat 8 (64 * (regAddr r).toNat + 8 * d2.toNat + m.digit.toNat) := by
  rw [octalByte_eq_ofNat, reg_digit_toNat]

theorem encode_add (r : Reg) (m : Mode) (b2 : Byte) :
    encode (.add r m b2) = [BitVec.ofNat 8 (64 * (regAddr r).toNat + 8 * 0 + m.digit.toNat), b2] :=
  congrArg (fun b1 => [b1, b2]) (octalByte_reg_eq_ofNat r 0 m)

theorem encode_sub (r : Reg) (m : Mode) (b2 : Byte) :
    encode (.sub r m b2) = [BitVec.ofNat 8 (64 * (regAddr r).toNat + 8 * 1 + m.digit.toNat), b2] :=
  congrArg (fun b1 => [b1, b2]) (octalByte_reg_eq_ofNat r 1 m)

theorem encode_store (r : Reg) (m : Mode) (b2 : Byte) :
    encode (.store r m b2) = [BitVec.ofNat 8 (64 * (regAddr r).toNat + 8 * 3 + m.digit.toNat), b2] :=
  congrArg (fun b1 => [b1, b2]) (octalByte_reg_eq_ofNat r 3 m)

/-- R26: the flag bytes stand behind 0o201 in the order of their registers. -/
theorem flagAddr_eq_add (r : Reg) : flagAddr r = 0o201 + regAddr r := by cases r <;> rfl

/-- R26: a flag byte as the number `2*CA + OF`, the two conditions written as 1 or 0. -/
theorem flagByte_eq_ofNat {ca ov : Bool} {n : Nat} {overflow : Prop} [Decidable overflow] (hca : n = ca.toNat)
    (hov : ov = true ↔ overflow) : flagByte ca ov = BitVec.ofNat 8 (2 * n + if overflow then 1 else 0) := by
  have number : (if overflow then 1 else 0) = ov.toNat := by
    rw [← if_congr hov rfl rfl]
    cases ov <;> rfl
  rw [number, hca]
  cases ca <;> cases ov <;> rfl

theorem toNat_eq_ite {ca : Bool} {carry : Prop} [Decidable carry] (h : ca = true ↔ carry) :
    (if carry then 1 else 0) = ca.toNat := by
  rw [← if_congr h rfl rfl]
  cases ca <;> rfl

/-- Settles O20: the two writes of ADD, its flag byte by the range conditions of the true sums. -/
theorem addWritesSumAndFlags : Obligations.AddWritesSumAndFlags := by
  intro r m b2 s a v
  obtain ⟨t, hExec, hReg, hFlags, frame⟩ := completes_of_exec_eq_write_flags (exec_add r m b2 s)
  have flags : addFlags a v = _ := flagByte_eq_ofNat (toNat_eq_ite (addCarry_iff a v)) (addOverflow_iff a v)
  rw [flagAddr_eq_add] at hFlags frame
  exact ⟨encode_add r m b2, t, hExec, hReg, hFlags.trans flags, frame⟩

/-- R122: SUB writes the difference to the register and its flags to the register's flag byte, then advances P by two.
-/
theorem exec_sub (r : Reg) (m : Mode) (b2 : Byte) (s : State) :
    exec (.sub r m b2) s =
      .next (((s.write (regAddr r) (s.read (regAddr r) - s.read (s.effectiveAddress m b2))).write (flagAddr r)
        (subFlags s.params.subCarry (s.read (regAddr r)) (s.read (s.effectiveAddress m b2)))).advance 2) := rfl

/-- R120: the Overflow of a difference is set exactly when the true signed difference lies outside -128 to 127. -/
theorem subOverflow_iff (a v : Byte) :
    subOverflow a v = true ↔ a.signed - v.signed < -128 ∨ 127 < a.signed - v.signed := by
  have signedOverflow : subOverflow a v = BitVec.ssubOverflow a v := by
    rw [BitVec.ssubOverflow_eq, subOverflow]
    cases a.msb <;> cases v.msb <;> simp
  rw [signedOverflow, BitVec.ssubOverflow, Bool.or_eq_true, decide_eq_true_iff, decide_eq_true_iff]
  simp only [Byte.signed]
  omega

theorem subBorrow_iff (a v : Byte) : subBorrow a v = true ↔ a.unsigned < v.unsigned := decide_eq_true_iff

/-- R122: CA after SUB as 1 or 0, for both polarities. -/
theorem subCarryBit_toNat (polarity : SubCarry) (a v : Byte) :
    (if polarity = .borrow then (if a.unsigned < v.unsigned then 1 else 0)
      else 1 - if a.unsigned < v.unsigned then 1 else 0) = (subCarryBit polarity a v).toNat := by
  rw [toNat_eq_ite (subBorrow_iff a v)]
  cases polarity with
  | borrow => rfl
  | notBorrow => 
    rw [subCarryBit, if_neg (by decide)]
    cases subBorrow a v <;> rfl

/-- Settles O21: the two writes of SUB, its flag byte by the range conditions of the true differences. -/
theorem subWritesDifferenceAndFlags : Obligations.SubWritesDifferenceAndFlags := by
  intro r m b2 s a v brw
  obtain ⟨t, hExec, hReg, hFlags, frame⟩ := completes_of_exec_eq_write_flags (exec_sub r m b2 s)
  have flags : subFlags s.params.subCarry a v = _ :=
    flagByte_eq_ofNat (subCarryBit_toNat s.params.subCarry a v) (subOverflow_iff a v)
  rw [flagAddr_eq_add] at hFlags frame
  exact ⟨encode_sub r m b2, t, hExec, hReg, hFlags.trans flags, frame⟩

/-- R7: the two readings of a byte differ by 256 where it is negative. -/
theorem signed_eq_ite (v : Byte) : v.signed = if v.unsigned < 128 then (v.unsigned : Int) else v.unsigned - 256 := by
  rw [Byte.signed, BitVec.toInt_eq_toNat_cond]
  simp only [Byte.unsigned]
  split <;> split <;> omega

/-- R7: the unsigned reading is the signed one modulo 256. -/
theorem unsigned_eq_signed_emod (v : Byte) : (v.unsigned : Int) = v.signed % 256 := by
  have range : v.unsigned < 256 := v.isLt
  rw [signed_eq_ite]
  split <;> omega

/-- Settles O22: the flags by the lemmas about each; a result is the true one modulo 256. -/
theorem flagsSayTrueResultOutOfRange : Obligations.FlagsSayTrueResultOutOfRange := by
  intro a v
  refine ⟨addOverflow_iff a v, subOverflow_iff a v, addCarry_iff a v, ?borrow, ?sum, ?difference⟩
  case borrow =>
    have unsigned : subCarryBit .borrow a v = true ↔ a.unsigned < v.unsigned := subBorrow_iff a v
    rw [unsigned]
    omega
  case sum =>
    rw [unsigned_eq_signed_emod, Byte.signed, BitVec.toInt_add]
    exact Int.bmod_emod
  case difference =>
    rw [unsigned_eq_signed_emod, Byte.signed, BitVec.toInt_sub]
    exact Int.bmod_emod

/-- R180: a byte taken from itself needs no borrow, and its difference is in range. -/
theorem subBorrow_self (a : Byte) : subBorrow a a = false := decide_eq_false (Nat.lt_irrefl _)

theorem subOverflow_self (a : Byte) : subOverflow a a = false := by
  rw [subOverflow, bne_self_eq_false, Bool.false_and]

/-- Settles O27: in Memory mode through its own address the register is both operands of SUB. -/
theorem subRegisterFromItselfClears : Obligations.SubRegisterFromItselfClears := by
  intro r s
  obtain ⟨t, hExec, hReg, hFlags, _, _, _⟩ := completes_of_exec_eq_write_flags (exec_sub r .memory (regAddr r) s)
  refine ⟨t, hExec, hReg.trans (BitVec.sub_self _), hFlags.trans ?_⟩
  have operand : s.effectiveAddress .memory (regAddr r) = regAddr r := rfl
  rw [operand, subFlags, subOverflow_self]
  cases s.params.subCarry with
  | borrow => rw [subCarryBit, subBorrow_self]; rfl
  | notBorrow => rw [subCarryBit, subBorrow_self]; rfl

/-! ### Stores -/

theorem UnchangedExcept.swap {s t : State} {a b : Byte} (h : UnchangedExcept s t [a, b]) : UnchangedExcept s t [b, a] :=
  fun c hc => h c (mt (List.Perm.swap b a []).mem_iff.mp hc)

/-- R111: an instruction whose meaning is one write, to any address, and the advance completes with P + 2, or, where it
wrote to P itself, with the value written plus 2. -/
theorem completes_of_exec_eq_write {i : Instr} {s : State} {a w : Byte}
    (h : exec i s = .next ((s.write a w).advance 2)) :
    ∃ t, exec i s = .next t ∧ (a ≠ addrP → t.read a = w ∧ t.pc = s.pc + 2) ∧ (a = addrP → t.pc = w + 2) ∧
      UnchangedExcept s t [a, addrP] ∧ SameBesideMemory s t := by
  refine ⟨_, h, fun beside => ⟨State.read_advance_write_same s a w 2 beside, State.pc_advance_write s a w 2 beside⟩,
    ?toP, (Effect.result a w 2).unchangedExcept.swap, rfl⟩
  case toP =>
    rintro rfl
    exact (State.read_advance_write_addrP s w 2 addrP).trans (if_pos rfl)

/-- Settles O24: STORE is one write at the effective address. -/
theorem storeCopiesRegisterToOperand : Obligations.StoreCopiesRegisterToOperand :=
  fun r m b2 s => ⟨encode_store r m b2, completes_of_exec_eq_write (exec_store r m b2 s)⟩

theorem encode_set0 (k : Fin 8) (b2 : Byte) : encode (.set0 k b2) = [BitVec.ofNat 8 (0o002 + 8 * k.val), b2] :=
  encodeBit_eq_ofNat 0 k b2

theorem encode_set1 (k : Fin 8) (b2 : Byte) : encode (.set1 k b2) = [BitVec.ofNat 8 (0o102 + 8 * k.val), b2] :=
  encodeBit_eq_ofNat 1 k b2

/-- R150: the mask of bit k has that bit alone. -/
theorem getLsbD_bitMask (k : Fin 8) (j : Nat) : (bitMask k).getLsbD j = decide (j = k.val) := by
  have mask : bitMask k = BitVec.twoPow 8 k.val := (BitVec.twoPow_eq 8 k.val).symm
  rw [mask, BitVec.getLsbD_twoPow, decide_eq_true k.isLt, Bool.true_and, decide_eq_decide]
  exact eq_comm

/-- Settles O35: each is one write of the byte with the mask taken out or put in. -/
theorem setsChangeOneBit : Obligations.SetsChangeOneBit := by
  intro k b2 s
  refine ⟨encode_set0 k b2, encode_set1 k b2, fun i bit hRow => ?_⟩
  obtain ⟨rfl, rfl⟩ | ⟨rfl, rfl⟩ := hRow
  · obtain ⟨t, hExec, frame⟩ := completes_of_exec_eq_write (i := .set0 k b2) (s := s) rfl
    refine ⟨t, _, hExec, fun j hj => ?_, frame⟩
    rw [BitVec.getLsbD_and, BitVec.getLsbD_not, getLsbD_bitMask]
    split <;> simp [*]
  · obtain ⟨t, hExec, frame⟩ := completes_of_exec_eq_write (i := .set1 k b2) (s := s) rfl
    refine ⟨t, _, hExec, fun j hj => ?_, frame⟩
    rw [BitVec.getLsbD_or, getLsbD_bitMask]
    split <;> simp [*]

/-! ### Jump and Mark -/

theorem encode_jmd (test : JumpTest) (c : Cond) (b2 : Byte) :
    encode (.jmd test c b2) = [BitVec.ofNat 8 (64 * test.digit.toNat + 8 * 6 + c.digit.toNat), b2] :=
  congrArg (fun b1 => [b1, b2]) (octalByte_eq_ofNat test.digit 6 c.digit)

theorem encode_jmi (test : JumpTest) (c : Cond) (b2 : Byte) :
    encode (.jmi test c b2) = [BitVec.ofNat 8 (64 * test.digit.toNat + 8 * 7 + c.digit.toNat), b2] :=
  congrArg (fun b1 => [b1, b2]) (octalByte_eq_ofNat test.digit 7 c.digit)

/-- R144, R145: what JMD and JMI have in common, the target being any address. -/
theorem completes_of_exec_eq_jumpAndMark {i : Instr} {s : State} {taken : Bool} {target : Byte}
    (h : exec i s = .next (s.jumpAndMark taken target)) :
    ∃ t, exec i s = .next t ∧ SameBesideMemory s t ∧
      if taken then
        t.pc = target + 1 ∧ (target ≠ addrP → t.read target = s.pc + 2) ∧ UnchangedExcept s t [target, addrP]
      else t.pc = s.pc + 2 ∧ UnchangedExcept s t [addrP] := by
  refine ⟨_, h, State.jumpAndMark_same s taken target, ?_⟩
  have frame := (Effect.mark (s := s) taken target).unchangedExcept
  cases taken with
  | false => exact ⟨State.pc_advance s 2, frame⟩
  | true =>
    refine ⟨(State.read_jumpAndMark_taken s target addrP).trans (if_pos rfl), fun beside => ?_, frame.swap⟩
    rw [State.read_jumpAndMark_taken, if_neg beside, if_pos rfl]

/-- Settles O32: the two differ in the target, which is formed from the state before the mark. -/
theorem jumpAndMarkStoresReturnAddress : Obligations.JumpAndMarkStoresReturnAddress := by
  intro test c b2 s
  refine ⟨encode_jmd test c b2, encode_jmi test c b2, fun i target hRow => ?_⟩
  obtain ⟨rfl, rfl⟩ | ⟨rfl, rfl⟩ := hRow
  · exact completes_of_exec_eq_jumpAndMark (i := .jmd test c target) (s := s) rfl
  · exact completes_of_exec_eq_jumpAndMark (i := .jmi test c b2) (s := s) rfl

/-- Settles O33: the call leaves p + 2 in byte S, and the return jumps to what byte S holds. -/
theorem subroutineReturnsAfterCall : Obligations.SubroutineReturnsAfterCall := by
  intro S c c' s hS
  obtain ⟨t, hExec, _, hPc, hMark, _⟩ := completes_of_exec_eq_jumpAndMark (i := .jmd .unconditional c S) (s := s) rfl
  refine ⟨t, hExec, hPc, fun later hLater => ?_⟩
  obtain ⟨_, _, _, back, hBack, hBackPc, _⟩ := jumpsGoToTheTarget .unconditional c' S later
  exact ⟨back, hBack, hBackPc.trans (hLater.trans (hMark hS))⟩

/-! ### The codes 0o313 to 0o317 -/

/-- Settles O42: P advances by the parameter, and nothing else is written. -/
theorem noop31AdvancesByItsLength : Obligations.Noop31AdvancesByItsLength := by
  intro m second s
  refine ⟨congrArg (· :: second.toList) (octalByte_eq_ofNat 3 1 m.digit), s.advance s.noop31Advance, rfl, ?_,
    State.advance_unchangedExcept s _, State.advance_same s _⟩
  rw [State.pc_advance, State.noop31Advance]
  cases s.params.noop31Length <;> rfl

end Sys2Proof.Machine
end

section
/-! PROOFS. The family of 45_shift_rotate.md, continued: places counted one at a time, and the rotates as inverses. -/

namespace Sys2Proof.Machine

/-- An operation on places that a further place can be taken from is its one place form, repeated. -/
theorem eq_iterate_one {op : Byte → Nat → Byte} (hZero : ∀ v, op v 0 = v)
    (hSucc : ∀ v k, op v (k + 1) = op (op v 1) k) (v : Byte) (k : Nat) : op v k = (fun w => op w 1)^[k] v := by
  induction k generalizing v with
  | zero => exact hZero v
  | succ k ih => rw [Function.iterate_succ_apply, hSucc, ih]

/-- R163: bit i of a byte rotated left comes from r places to its right, around the byte. -/
theorem getLsbD_rotateLeft_eq (v : Byte) (r : Nat) {i : Nat} (hi : i < 8) :
    (v.rotateLeft r).getLsbD i = v.getLsbD ((i + 8 - r % 8) % 8) := by
  rw [BitVec.getLsbD_rotateLeft]
  by_cases wraps : i < r % 8
  · have source : (i + 8 - r % 8) % 8 = 8 - r % 8 + i := by omega
    rw [decide_eq_true wraps, cond_true, source]
  · have source : (i + 8 - r % 8) % 8 = i - r % 8 := by omega
    rw [decide_eq_false wraps, cond_false, decide_eq_true hi, Bool.true_and, source]

/-- R164: bit i of a byte rotated right comes from r places to its left, around the byte. -/
theorem getLsbD_rotateRight_eq (v : Byte) (r : Nat) {i : Nat} (hi : i < 8) :
    (v.rotateRight r).getLsbD i = v.getLsbD ((i + r % 8) % 8) := by
  rw [BitVec.getLsbD_rotateRight]
  by_cases stays : i < 8 - r % 8
  · have source : (i + r % 8) % 8 = r % 8 + i := by omega
    rw [decide_eq_true stays, cond_true, source]
  · have source : (i + r % 8) % 8 = i - (8 - r % 8) := by omega
    rw [decide_eq_false stays, cond_false, decide_eq_true hi, Bool.true_and, source]

theorem rotateLeft_zero (v : Byte) : v.rotateLeft 0 = v := by
  refine BitVec.eq_of_getLsbD_eq fun i hi => ?_
  have place : (i + 8 - 0 % 8) % 8 = i := by omega
  rw [getLsbD_rotateLeft_eq _ _ hi, place]

theorem rotateRight_zero (v : Byte) : v.rotateRight 0 = v := by
  refine BitVec.eq_of_getLsbD_eq fun i hi => ?_
  have place : (i + 0 % 8) % 8 = i := by omega
  rw [getLsbD_rotateRight_eq _ _ hi, place]

theorem rotateLeft_succ (v : Byte) (k : Nat) : v.rotateLeft (k + 1) = (v.rotateLeft 1).rotateLeft k := by
  refine BitVec.eq_of_getLsbD_eq fun i hi => ?_
  have place : ((i + 8 - k % 8) % 8 + 8 - 1 % 8) % 8 = (i + 8 - (k + 1) % 8) % 8 := by omega
  rw [getLsbD_rotateLeft_eq _ _ hi, getLsbD_rotateLeft_eq _ _ hi, getLsbD_rotateLeft_eq _ _ (by omega), place]

theorem rotateRight_succ (v : Byte) (k : Nat) : v.rotateRight (k + 1) = (v.rotateRight 1).rotateRight k := by
  refine BitVec.eq_of_getLsbD_eq fun i hi => ?_
  have place : ((i + k % 8) % 8 + 1 % 8) % 8 = (i + (k + 1) % 8) % 8 := by omega
  rw [getLsbD_rotateRight_eq _ _ hi, getLsbD_rotateRight_eq _ _ hi, getLsbD_rotateRight_eq _ _ (by omega), place]

/-- R164: a rotate right by as many places undoes a rotate left. -/
theorem rotateRight_rotateLeft (v : Byte) (n : Places) : rotateRight (rotateLeft v n) n = v := by
  refine BitVec.eq_of_getLsbD_eq fun i hi => ?_
  have place : ((i + placeCount n % 8) % 8 + 8 - placeCount n % 8) % 8 = i := by omega
  rw [rotateRight, getLsbD_rotateRight_eq _ _ hi, rotateLeft, getLsbD_rotateLeft_eq _ _ (by omega), place]

/-- R164: half of the places is the same rotation in both directions. -/
theorem rotateRight_four (v : Byte) : rotateRight v .four = rotateLeft v .four := by
  rw [rotateRight_eq_or, rotateLeft_eq_or]
  exact BitVec.or_comm _ _

/-! R160: the one place forms, bit by bit. -/

theorem shiftLeft_one_eq_bits (v : Byte) :
    let c := fun k => BitVec.ofBool (v.getLsbD k)
    shiftLeft v .one = c 6 ++ c 5 ++ c 4 ++ c 3 ++ c 2 ++ c 1 ++ c 0 ++ (0 : BitVec 1) := by
  revert v
  decide

theorem rotateLeft_one_eq_bits (v : Byte) :
    let c := fun k => BitVec.ofBool (v.getLsbD k)
    rotateLeft v .one = c 6 ++ c 5 ++ c 4 ++ c 3 ++ c 2 ++ c 1 ++ c 0 ++ c 7 := by
  revert v
  decide

theorem shiftRight_one_eq_bits (v : Byte) :
    let c := fun k => BitVec.ofBool (v.getLsbD k)
    shiftRight v .one = c 7 ++ c 7 ++ c 6 ++ c 5 ++ c 4 ++ c 3 ++ c 2 ++ c 1 := by
  revert v
  decide

theorem rotateRight_one_eq_bits (v : Byte) :
    let c := fun k => BitVec.ofBool (v.getLsbD k)
    rotateRight v .one = c 0 ++ c 7 ++ c 6 ++ c 5 ++ c 4 ++ c 3 ++ c 2 ++ c 1 := by
  revert v
  decide

/-- Settles O38: each operation takes a further place first, and its one place form moves the bits as the table says. -/
theorem shiftsRepeatOnePlace : Obligations.ShiftsRepeatOnePlace := by
  intro v n c
  refine ⟨?shiftLeft, ?shiftRight, ?rotateLeft, ?rotateRight, shiftLeft_one_eq_bits v, rotateLeft_one_eq_bits v,
    shiftRight_one_eq_bits v, rotateRight_one_eq_bits v⟩
  case shiftLeft =>
    exact eq_iterate_one (op := fun w k => w <<< k) BitVec.shiftLeft_zero
      (fun w k => by rw [Nat.add_comm, BitVec.shiftLeft_add]) v (placeCount n)
  case shiftRight =>
    exact eq_iterate_one (op := BitVec.sshiftRight) (fun _ => BitVec.sshiftRight_zero)
      (fun w k => by rw [Nat.add_comm, BitVec.sshiftRight_add]) v (placeCount n)
  case rotateLeft => exact eq_iterate_one (op := BitVec.rotateLeft) rotateLeft_zero rotateLeft_succ v (placeCount n)
  case rotateRight =>
    exact eq_iterate_one (op := BitVec.rotateRight) rotateRight_zero rotateRight_succ v (placeCount n)

theorem SameBesideMemory.trans {s t u : State} (h : SameBesideMemory s t) (h' : SameBesideMemory t u) :
    SameBesideMemory s u := by
  have outer : { u with mem := s.mem } = { t with mem := s.mem } :=
    congrArg (fun x : State => { x with mem := s.mem }) h'
  exact outer.trans h

/-- Settles O39: the register gets its value back, P was advanced twice, no other byte was written. -/
theorem rotateRightUndoesRotateLeft : Obligations.RotateRightUndoesRotateLeft := by
  intro g n s
  obtain ⟨t, hExec, hReg, hPc, frame, same⟩ := completes_of_exec_eq_shiftReg (exec_rotl g n s)
  obtain ⟨u, hExec', hReg', hPc', frame', same'⟩ := completes_of_exec_eq_shiftReg (exec_rotr g n t)
  refine ⟨t, u, hExec, hExec', ?pc, ?frame, same.trans same', ?four⟩
  case pc =>
    rw [hPc', hPc, BitVec.add_assoc]
    rfl
  case frame =>
    intro b hb
    by_cases register : b = shiftRegAddr g
    · rw [register, hReg', hReg, rotateRight_rotateLeft]
    · have beside : b ∉ [shiftRegAddr g, addrP] := List.not_mem_cons_of_ne_of_not_mem register hb
      rw [frame' b beside, frame b beside]
  case four => rw [exec_rotr, exec_rotl, funext rotateRight_four]

end Sys2Proof.Machine
end

section
/-! PROOFS. The families of 60_exceptions.md and 70_reset_and_hazards.md, continued: the remaining presses, the power
switch, the power-on procedure and the loading sequence. -/

namespace Sys2Proof.Machine

/-! ### Presses -/

theorem State.dataLamps_of_sel_memory (s : State) (h : s.sel = .memory) : s.dataLamps = s.memShown := by
  rw [State.dataLamps, h]

theorem State.dataLamps_of_sel_run (s : State) (h : s.sel = .run) : s.dataLamps = s.read addrOut := by
  rw [State.dataLamps, h]

/-- Settles O43: one clause of the Data Lamps for each selection. -/
theorem dataLampsShowTheSelection : Obligations.DataLampsShowTheSelection :=
  fun s => ⟨s.dataLamps_of_sel_input, s.dataLamps_of_sel_address, s.dataLamps_of_sel_memory,
    fun dark => dark.elim s.dataLamps_of_sel_run s.dataLamps_of_sel_none⟩

/-- R212: a Data Pushbutton in either state; only the lamps tell Run, which keeps their selection, from Halt. -/
theorem step_dataButton (s : State) (i : Fin 8) (rest : List Turn) (hPower : s.power = .on)
    (hSchedule : s.schedule = .operator (.dataButton i) :: rest) :
    step s = .next (((s.withSchedule rest).pressData i).light (if s.run = .halt then .input else s.sel)) := by
  cases hRun : s.run with
  | run => exact step_of_operator_run s (.dataButton i) rest hPower hRun hSchedule
  | halt => exact State.Halted.step_of_operator ⟨hPower, hRun⟩ hSchedule

theorem State.pressData_unchangedExcept (s : State) (i : Fin 8) : UnchangedExcept s (s.pressData i) [addrIn] := by
  intro b hb
  rw [State.read_pressData, if_neg (mt List.mem_singleton.mpr hb)]

/-- R212: bit i of location 0o377 is set and no bit is reset. -/
theorem State.read_pressData_getLsbD (s : State) (i : Fin 8) (k : Nat) :
    ((s.pressData i).read addrIn).getLsbD k = (decide (k = i.val) || (s.read addrIn).getLsbD k) := by
  have bit : ((1 : Byte) <<< i.val).getLsbD k = decide (k = i.val) := getLsbD_bitMask i k
  rw [State.read_pressData, if_pos rfl, BitVec.getLsbD_or, bit, Bool.or_comm]

/-- Settles O44: a Data Pushbutton is one write of location 0o377, and in the Halt state the Input lamp. -/
theorem dataButtonSetsItsBit : Obligations.DataButtonSetsItsBit := by
  intro i s rest hPower hSchedule
  exact ⟨_, step_dataButton s i rest hPower hSchedule,
    fun k _ => State.read_pressData_getLsbD (s.withSchedule rest) i k,
    State.pressData_unchangedExcept (s.withSchedule rest) i, rfl⟩

/-- Settles O47: Memory Read in the Halt state; its lamp shows the byte it latched. -/
theorem memoryReadShowsAndAdvances : Obligations.MemoryReadShowsAndAdvances := by
  intro s rest hHalted hSchedule
  exact ⟨_, hHalted.step_of_operator hSchedule, rfl,
    State.dataLamps_of_sel_memory _ (State.pressMemoryRead_sel (s.withSchedule rest))⟩

/-- R241: Start leaves the control circuits started where they are not initialised. -/
theorem Circuits.afterStart_of_ne_initialised {c : Circuits} (h : c ≠ .initialised) : c.afterStart = .started := by
  cases c with
  | initialised => exact absurd rfl h
  | undefined | started => rfl

/-- Settles O49: Start in the Halt state enters the Run state, where the step is the cycle at P. -/
theorem startEntersTheRunState : Obligations.StartEntersTheRunState := by
  intro s rest hHalted hSchedule
  obtain ⟨hPower, hRun⟩ := hHalted
  refine ⟨_, step_start_of_halt s rest hPower hRun hSchedule, rfl, rfl, rfl, rfl, rfl, ?initialised, ?started,
    rfl, rfl, rfl, rfl, ?cycle⟩
  case initialised =>
    intro initialised
    rw [State.enterRun_circuits, State.withSchedule_circuits, initialised, Circuits.initialised_afterStart]
  case started => exact Circuits.afterStart_of_ne_initialised
  case cycle =>
    intro hRest
    exact (step_of_empty _ hRest).trans (processorTurn_of_run (s.withSchedule rest).enterRun hPower rfl)

/-- Settles O50: Stop in the Run state ends it. -/
theorem stopEndsTheRunState : Obligations.StopEndsTheRunState :=
  fun s rest hPower hRun hSchedule => step_of_operator_run s .stop rest hPower hRun hSchedule

/-- R223: the instruction of a single step completes, and the single step with it. -/
theorem singleStep_of_exec {s t : State} (h : exec s.enterRun.nextInstr s.enterRun = .next t) :
    singleStep s = .next t.enterHalt := by
  have cycle : instructionCycle s.enterRun = .next t := h
  rw [singleStep, cycle]

/-- Settles O51: the instruction at P runs from the entered Run state; Start and the end of the Run state leave the
control circuits initialised. -/
theorem singleStepExecutesOneInstruction : Obligations.SingleStepExecutesOneInstruction := by
  intro s rest hHalted hSchedule
  obtain ⟨t, hExec⟩ := exec_completes (s.withSchedule rest).enterRun.nextInstr (s.withSchedule rest).enterRun
  have initialised : t.enterHalt.circuits = .initialised := circuits_enterHalt_of_exec_enterRun hExec
  refine ⟨t, hExec, ?_⟩
  have pressed : step s = .next t.enterHalt :=
    (hHalted.step_of_operator hSchedule).trans (singleStep_of_exec hExec)
  rw [pressed, ← initialised]
  rfl

/-- R219: a Start once one has been pressed has no move. -/
theorem startInRun_refused {s : State} (h : s.circuits ≠ .undefined) : startInRun s = .refused .undescribedInRun := by
  unfold startInRun
  split
  case h_1 undefined => exact absurd undefined h
  case h_2 => rfl
  case h_3 => rfl

/-- Settles O53: each press is refused by its row of the Run or of the Halt state. -/
theorem undescribedPressesHaveNoMove : Obligations.UndescribedPressesHaveNoMove := by
  intro s rest e hPower hSchedule
  refine ⟨fun hRun hRow => ?run, fun hRun hCircuits hStart => ?start, fun hRun hStop => ?stop⟩
  case run =>
    rw [step_of_operator_run s e rest hPower hRun hSchedule]
    obtain rfl | rfl | rfl | rfl | rfl := hRow <;> rfl
  case start =>
    subst hStart
    exact (step_of_operator_run s .start rest hPower hRun hSchedule).trans (startInRun_refused hCircuits)
  case stop =>
    subst hStop
    exact State.Halted.step_of_operator ⟨hPower, hRun⟩ hSchedule

/-! ### Power and the power-on procedure -/

/-- R208: the power switch in either state turns power off. -/
theorem step_powerOff (s : State) (rest : List Turn) (hPower : s.power = .on)
    (hSchedule : s.schedule = .operator .powerOff :: rest) : step s = .next ((s.withSchedule rest).loseAll .off) := by
  cases hRun : s.run with
  | run => exact step_of_operator_run s .powerOff rest hPower hRun hSchedule
  | halt => exact State.Halted.step_of_operator ⟨hPower, hRun⟩ hSchedule

/-- R240: the power switch of a machine that is off turns power on. -/
theorem step_powerOn (s : State) (rest : List Turn) (hPower : s.power = .off)
    (hSchedule : s.schedule = .operator .powerOn :: rest) : step s = .next ((s.withSchedule rest).loseAll .on) := by
  rw [step_of_operator s .powerOn rest hSchedule, operatorTurn, State.withSchedule_power, hPower]
  rfl

/-- Settles O54: both turns of the switch draw everything anew; what is there afterwards is the second draw. -/
theorem powerCycleLosesAllState : Obligations.PowerCycleLosesAllState := by
  intro s rest hPower hSchedule
  exact ⟨_, _, step_powerOff s _ hPower hSchedule, rfl, step_powerOn _ rest rfl rfl, rfl,
    State.read_loseAll _ .on, rfl, rfl, rfl, rfl, rfl, rfl⟩

/-- R241: Start in either state, in the Run state as the procedure's one Start. -/
theorem step_start (s : State) (rest : List Turn) (hPower : s.power = .on)
    (hUndefined : s.run = .run → s.circuits = .undefined) (hSchedule : s.schedule = .operator .start :: rest) :
    step s = .next (s.withSchedule rest).enterRun := by
  cases hRun : s.run with
  | run =>
    have undefined : (s.withSchedule rest).circuits = .undefined := hUndefined hRun
    rw [step_of_operator_run s .start rest hPower hRun hSchedule, pressInRun, startInRun, undefined]
  | halt => exact step_start_of_halt s rest hPower hRun hSchedule

/-- Settles O55: Start leaves the circuits started, and the Stop after it initialises them. -/
theorem powerOnProcedureReachesHalt : Obligations.PowerOnProcedureReachesHalt := by
  intro s rest hPower hNot hUndefined hSchedule
  have started : s.circuits.afterStart = .started := Circuits.afterStart_of_ne_initialised hNot
  refine ⟨_, _, step_start s _ hPower hUndefined hSchedule, rfl, started, rfl,
    stopEndsTheRunState _ rest hPower rfl rfl, rfl, ?_, rfl, rfl, rfl⟩
  exact (congrArg Circuits.afterHalt started).trans Circuits.started_afterHalt

/-! ### The loading sequence -/

theorem stepsTo_add {j k : Nat} {s t u : State} (h : stepsTo j s t) (h' : stepsTo k t u) : stepsTo (j + k) s u := by
  induction j generalizing s with
  | zero =>
    obtain rfl : s = t := h
    rwa [Nat.zero_add]
  | succ j ih =>
    obtain ⟨m, hStep, hRest⟩ := h
    rw [Nat.succ_add]
    exact ⟨m, hStep, ih hRest⟩

theorem stepsTo_succ_of_step {k : Nat} {s t u : State} (h : step s = .next t) (h' : stepsTo k t u) :
    stepsTo (k + 1) s u := ⟨t, h, h'⟩

/-- What the presses that enter a byte keep: the Halt state, the Address Register, and memory beside location 0o377. -/
structure Entered (s t : State) (rest : List Turn) : Prop where
  halted : t.Halted
  schedule : t.schedule = rest
  ar : t.ar = s.ar
  frame : UnchangedExcept s t [addrIn]

theorem Entered.trans {s t u : State} {between rest : List Turn} (h : Entered s t between) (h' : Entered t u rest) :
    Entered s u rest where
  halted := h'.halted
  schedule := h'.schedule
  ar := h'.ar.trans h.ar
  frame := fun b hb => (h'.frame b hb).trans (h.frame b hb)

theorem entered_of_same {s t : State} {rest : List Turn} {lamp : Sel} (hHalted : s.Halted)
    (frame : UnchangedExcept s t [addrIn]) (same : SameBesideMemory { s with schedule := rest, sel := lamp } t) :
    Entered s t rest := by
  obtain ⟨hPower, hRun⟩ := hHalted
  have power := sameBesideMemory_power _ t same
  have run := sameBesideMemory_run _ t same
  have ar := sameBesideMemory_ar _ t same
  exact ⟨⟨power.trans hPower, run.trans hRun⟩, sameBesideMemory_schedule _ t same, ar, frame⟩

/-- R243: Data Pushbuttons, one after another, set their bits of location 0o377. -/
theorem steps_dataButtons (buttons : List (Fin 8)) {s : State} {rest : List Turn} (hHalted : s.Halted)
    (hSchedule : s.schedule = buttons.map (fun i => .operator (.dataButton i)) ++ rest) :
    ∃ t, stepsTo buttons.length s t ∧ Entered s t rest ∧
      ∀ k < 8, (t.read addrIn).getLsbD k = true ↔ (∃ i ∈ buttons, k = i.val) ∨ (s.read addrIn).getLsbD k = true := by
  induction buttons generalizing s with
  | nil => exact ⟨s, rfl, ⟨hHalted, hSchedule, rfl, fun _ _ => rfl⟩, fun k _ => by simp⟩
  | cons i more ih =>
    obtain ⟨m, hStep, hBits, frame, same⟩ := dataButtonSetsItsBit i s _ hHalted.1 hSchedule
    have entered : Entered s m (more.map (fun i => .operator (.dataButton i)) ++ rest) :=
      entered_of_same hHalted frame same
    obtain ⟨t, hSteps, entered', hBits'⟩ := ih entered.halted entered.schedule
    refine ⟨t, stepsTo_succ_of_step hStep hSteps, entered.trans entered', fun k hk => ?_⟩
    rw [hBits' k hk, hBits k hk, Bool.or_eq_true, decide_eq_true_iff, List.exists_mem_cons_iff, or_left_comm,
      or_assoc]

/-- R243: Clear and the Data Pushbuttons of a byte's One bits leave that byte in location 0o377. -/
theorem steps_enterByte (v : Byte) {s : State} {rest : List Turn} (hHalted : s.Halted)
    (hSchedule : s.schedule = enterByte v ++ rest) :
    ∃ t, stepsTo (enterByte v).length s t ∧ Entered s t rest ∧ t.read addrIn = v := by
  obtain ⟨m, hStep, hErased, frame, same⟩ := clearErasesInput s _ hHalted.1 hSchedule
  have entered : Entered s m (enterButtons v ++ rest) := entered_of_same hHalted frame same
  obtain ⟨t, hSteps, entered', hBits⟩ := steps_dataButtons _ entered.halted entered.schedule
  refine ⟨t, stepsTo_succ_of_step hStep (by rwa [enterButtons, List.length_map]), entered.trans entered', ?_⟩
  have erased (k : Nat) : (m.read addrIn).getLsbD k = false := by
    rw [hErased]
    exact BitVec.getLsbD_zero
  refine BitVec.eq_of_getLsbD_eq fun k hk => ?_
  rw [Bool.eq_iff_iff, hBits k hk, erased]
  constructor
  · rintro (⟨i, hi, rfl⟩ | absurd)
    · exact (List.mem_filter.mp hi).2
    · cases absurd
  · intro one
    exact .inl ⟨⟨k, hk⟩, List.mem_filter.mpr ⟨List.mem_finRange _, one⟩, rfl⟩

/-- R243: what storing bytes from the Address Register of `s` leaves. -/
structure Stored (s t : State) (first : Byte) (bytes : List Byte) : Prop where
  halted : t.Halted
  schedule : t.schedule = []
  ar : t.ar = first + BitVec.ofNat 8 bytes.length
  contents : ∀ n v, bytes[n]? = some v → t.read (first + BitVec.ofNat 8 n) = v
  frame : ∀ a : Byte, a ≠ addrIn → a.toNat < first.toNat ∨ first.toNat + bytes.length ≤ a.toNat → t.read a = s.read a

/-- R55: below the top of memory the next address is one more. -/
theorem toNat_add_one {a : Byte} (h : a.toNat < 255) : (a + 1).toNat = a.toNat + 1 := by bv_omega

/-- R55: a sum of addresses, the second of them counted in steps. -/
theorem add_one_add_ofNat (first : Byte) (n : Nat) : first + 1 + BitVec.ofNat 8 n = first + BitVec.ofNat 8 (n + 1) := by
  rw [BitVec.ofNat_add, BitVec.add_comm (BitVec.ofNat 8 n), BitVec.add_assoc]
  rfl

/-- A byte was entered and stored at `first`, and the others behind it. -/
theorem Stored.cons {s m t : State} {first v : Byte} {more : List Byte} (hTop : first.toNat + (more.length + 1) ≤ 255)
    (hStored : m.read first = v) (hFrame : ∀ a, a ≠ addrIn → a ≠ first → m.read a = s.read a)
    (h : Stored m t (first + 1) more) : Stored s t first (v :: more) := by
  have next : (first + 1).toNat = first.toNat + 1 := toNat_add_one (by omega)
  have firstNeIn : first ≠ addrIn := by
    rintro rfl
    exact absurd hTop (by simp)
  refine ⟨h.halted, h.schedule, h.ar.trans (add_one_add_ofNat first more.length), fun n w hn => ?contents,
    fun a hIn hBeside => ?frame⟩
  case contents =>
    cases n with
    | zero =>
      obtain rfl : v = w := by simpa using hn
      have kept : t.read first = m.read first := h.frame first firstNeIn (.inl (by omega))
      simpa using kept.trans hStored
    | succ n =>
      rw [← add_one_add_ofNat]
      exact h.contents n w (by simpa using hn)
  case frame =>
    rw [List.length_cons] at hBeside
    have other : a ≠ first := by
      rintro rfl
      omega
    rw [h.frame a hIn (by omega), hFrame a hIn other]

/-- R243: Clear, Enter and Memory Store for each byte, by induction over the bytes. -/
theorem steps_storeBytes (bytes : List Byte) {s : State} (hHalted : s.Halted) (hTop : s.ar.toNat + bytes.length ≤ 255)
    (hSchedule : s.schedule = storeBytes bytes) :
    ∃ t, stepsTo (storeBytes bytes).length s t ∧ Stored s t s.ar bytes := by
  induction bytes generalizing s with
  | nil =>
    refine ⟨s, rfl, hHalted, hSchedule, (BitVec.add_zero s.ar).symm, fun n v none => ?_, fun _ _ _ => rfl⟩
    cases none
  | cons v more ih =>
    obtain ⟨m, hEnter, entered, hIn⟩ := steps_enterByte v hHalted hSchedule
    obtain ⟨u, hStep, hRead, hAr, frame, hRun, _, _, hPower, _, hRest⟩ :=
      memoryStoreWritesAndAdvances m _ entered.halted entered.schedule
    obtain ⟨mPower, mRun⟩ := entered.halted
    rw [entered.ar] at hRead hAr frame
    rw [List.length_cons] at hTop
    have next : u.ar.toNat = s.ar.toNat + 1 := hAr ▸ toNat_add_one (by omega)
    obtain ⟨t, hSteps, stored⟩ := ih (s := u) ⟨hPower.trans mPower, hRun.trans mRun⟩ (by omega) hRest
    refine ⟨t, ?steps, .cons hTop (hRead.trans hIn) (fun a beside other => ?_) (hAr ▸ stored)⟩
    case steps =>
      rw [storeBytes, List.length_append]
      exact stepsTo_add hEnter (stepsTo_succ_of_step hStep hSteps)
    rw [frame a (mt List.mem_singleton.mp other), entered.frame a (mt List.mem_singleton.mp beside)]

/-- Settles O56: the first address is entered and set, then the bytes are stored from there; entering writes no byte but
location 0o377. -/
theorem loadingSequenceStoresTheBytes : Obligations.LoadingSequenceStoresTheBytes := by
  intro s first bytes hHalted hTop hSchedule
  obtain ⟨m, hEnter, entered, hIn⟩ := steps_enterByte first hHalted hSchedule
  obtain ⟨addressSet, _⟩ := addressSetAndDisplay m (storeBytes bytes) entered.halted
  obtain ⟨u, hStep, hAr, hMem, hRun, _, _, hPower, _, hRest⟩ := addressSet entered.schedule
  obtain ⟨mPower, mRun⟩ := entered.halted
  have ar : u.ar = first := hAr.trans hIn
  obtain ⟨t, hSteps, stored⟩ :=
    steps_storeBytes bytes (s := u) ⟨hPower.trans mPower, hRun.trans mRun⟩ (by rwa [ar]) hRest
  rw [ar] at stored
  refine ⟨t, ?steps, stored.halted, stored.schedule, stored.ar, stored.contents, fun a hIn hBeside => ?frame⟩
  case steps =>
    rw [loadProgram, List.length_append]
    exact stepsTo_add hEnter (stepsTo_succ_of_step hStep hSteps)
  case frame =>
    have kept : u.read a = m.read a := congrArg (Memory.read · a) hMem
    rw [stored.frame a hIn hBeside, kept, entered.frame a (mt List.mem_singleton.mp hIn)]

end Sys2Proof.Machine
end
